-- ==== Sys2Proof/Word.lean ====
section
/-! DEFINITION. The words of SEYTAN-CORE: limbs, 128-bit values, bytes, and the wide (256-bit) value as its four limbs. -/

namespace Sys2Proof

/-- A limb of a wide value: 64 bits (20_memory.md R52, 00_scope.md R8). -/
abbrev Limb := BitVec 64

/-- A value of the 128-bit unit (10_state.md R27). -/
abbrev Word128 := BitVec 128

/-- An input byte, unsigned (30_encoding.md R72). -/
abbrev Byte := BitVec 8

/-- A wide value: exactly four unsigned 64-bit limbs, limb 0 least significant (10_state.md R21, 20_memory.md R52). -/
structure Wide where
  l0 : Limb
  l1 : Limb
  l2 : Limb
  l3 : Limb
  deriving DecidableEq, Repr, Inhabited

/-- `val(v)` of 00_scope.md section 5 and 20_memory.md R52: the number a wide value stands for. -/
def Wide.val (v : Wide) : Nat :=
  v.l0.toNat + 2 ^ 64 * v.l1.toNat + 2 ^ 128 * v.l2.toNat + 2 ^ 192 * v.l3.toNat

/-- The wide value 0. -/
def Wide.zero : Wide := ⟨0, 0, 0, 0⟩

end Sys2Proof
end

