-- ==== Sys2Proof/Syntax.lean ====
section
/-! DEFINITION. The 23 commands of SEYTAN-CORE, one constructor per row of spec/opcode_table.json, with the names their operands select. -/

namespace Sys2Proof

/-- The four general wide registers (10_state.md R21). `W0` is also called SUM and `W1` TERM. -/
inductive WReg where
  | w0 | w1 | w2 | w3
  deriving DecidableEq, Repr

/-- A wide source: a general register or one of the read-only constants (10_state.md R22, R25). -/
inductive WSrc where
  | reg (w : WReg)
  | k | r | p
  deriving DecidableEq, Repr

/-- A limb index, 0 least significant (20_memory.md R51, R52). -/
inductive LimbIdx where
  | i0 | i1 | i2 | i3
  deriving DecidableEq, Repr

/-- A half of `X`: `lo` is `X[63:0]`, `hi` is `X[127:64]` (10_state.md R28). -/
inductive Half where
  | lo | hi
  deriving DecidableEq, Repr

/-- The registers RDS reads, in the order of their index 0..3 (10_state.md R36). -/
inductive StatusIdx where
  | status | pos | lenLo | lenHi
  deriving DecidableEq, Repr

/-- The 128-bit constants MULK128 names (10_state.md R26). -/
inductive KIdx where
  | k1 | k2 | k3
  deriving DecidableEq, Repr

/-- The causes of `IllegalCommand` (60_exceptions.md R202). -/
inductive ECode where
  /-- EC_OPCODE, 1: the opcode is none of the 23. -/
  | opcode
  /-- EC_REGSEL, 2: a used wide select holds a reserved value. -/
  | regsel
  /-- EC_LSEL, 3: a used `lsel` holds a reserved value. -/
  | lsel
  /-- EC_IMM, 4: a used `imm8` holds a reserved value. -/
  | imm
  /-- EC_MBZ, 5: a field the command does not use is nonzero. -/
  | mbz
  deriving DecidableEq, Repr

/-- The decoded command (30_encoding.md R65, R70): the operands a row of R71 uses, the data-in `D` included where the
command uses it (R68). The amounts of ROTL128 and XSHR128 are the bytes the word holds; WellFormed.lean gives their range. -/
inductive Instr where
  | nop
  | wrw (rd : WReg) (limb : LimbIdx) (d : Limb)
  | rdw (ra : WSrc) (limb : LimbIdx)
  | wrx (half : Half) (d : Limb)
  | rdx (half : Half)
  | rds (idx : StatusIdx)
  | add256 (rd : WReg) (ra : WSrc)
  | sub256 (rd : WReg) (ra : WSrc)
  | cmp256 (ra rb : WSrc)
  | red256 (rd : WReg)
  | muls256 (rd : WReg) (ra : WSrc) (d : Limb)
  | mulw256 (rd : WReg) (ra rb : WSrc)
  | xor256 (rd : WReg) (ra : WSrc)
  | init128
  | foldb (b : Byte)
  | lenbind
  | rotl128 (amount : Byte)
  | mulk128 (k : KIdx)
  | hlmix128
  | xshr128 (amount : Byte)
  | mix128
  | init256
  | absorb256 (b : Byte)
  deriving DecidableEq, Repr

end Sys2Proof
end

