-- ==== Sys2Proof/WellFormed.lean ====
section
/-! DEFINITION. Which decoded commands are legal: the operand ranges that the types of Syntax.lean do not already fix. -/

namespace Sys2Proof

/-- A legal rotate amount, 1..127 (30_encoding.md R72, 41_mixer128.md R126, R127). -/
def rotAmountOk (r : Byte) : Bool := decide (1 ≤ r.toNat ∧ r.toNat ≤ 127)

/-- A legal shift amount, 0..127 (30_encoding.md R72, 41_mixer128.md R133). -/
def shiftAmountOk (s : Byte) : Bool := decide (s.toNat ≤ 127)

/-- The command is one that some legal word encodes (30_encoding.md R67, R71). -/
def Instr.wellFormed : Instr → Bool
  | .rotl128 r => rotAmountOk r
  | .xshr128 s => shiftAmountOk s
  | .nop | .wrw .. | .rdw .. | .wrx .. | .rdx .. | .rds .. | .add256 .. | .sub256 .. | .cmp256 .. | .red256 .. | .muls256 ..
  | .mulw256 .. | .xor256 .. | .init128 | .foldb .. | .lenbind | .mulk128 .. | .hlmix128 | .mix128 | .init256
  | .absorb256 .. => true

end Sys2Proof
end

