-- ==== Sys2Proof/Decode.lean ====
section
/-! DEFINITION. The command word (30_encoding.md R66): the strict, total decoder (R67, R71; 60_exceptions.md R202, R204), the
encoder, and the encoding table of R71 as data. -/

namespace Sys2Proof

/-- The six fields of a command word (30_encoding.md R66). -/
structure Fields where
  opcode : BitVec 8
  rd : BitVec 4
  ra : BitVec 4
  rb : BitVec 4
  lsel : BitVec 4
  imm8 : BitVec 8
  deriving DecidableEq, Repr

/-- The fields of `W`: opcode 31:24, rd 23:20, ra 19:16, rb 15:12, lsel 11:8, imm8 7:0 (30_encoding.md R66). -/
def fieldsOf (w : BitVec 32) : Fields where
  opcode := w.extractLsb' 24 8
  rd := w.extractLsb' 20 4
  ra := w.extractLsb' 16 4
  rb := w.extractLsb' 12 4
  lsel := w.extractLsb' 8 4
  imm8 := w.extractLsb' 0 8

/-- The word made of six fields (30_encoding.md R66). -/
def Fields.word (f : Fields) : BitVec 32 := f.opcode ++ f.rd ++ f.ra ++ f.rb ++ f.lsel ++ f.imm8

/-! ### Select codes -/

/-- A wide destination select: 0..3, the rest illegal (10_state.md R22). -/
def WReg.ofSel (s : BitVec 4) : Option WReg :=
  match s.toNat with
  | 0 => some .w0
  | 1 => some .w1
  | 2 => some .w2
  | 3 => some .w3
  | _ => none

/-- The select of a wide register (10_state.md R21). -/
def WReg.sel : WReg → BitVec 4
  | .w0 => 0
  | .w1 => 1
  | .w2 => 2
  | .w3 => 3

/-- A wide source select: 0..3 registers, 4 `K`, 5 `R`, 6 `P`, the rest reserved (10_state.md R22). -/
def WSrc.ofSel (s : BitVec 4) : Option WSrc :=
  match s.toNat with
  | 4 => some .k
  | 5 => some .r
  | 6 => some .p
  | _ => (WReg.ofSel s).map .reg

/-- The select of a wide source (10_state.md R22). -/
def WSrc.sel : WSrc → BitVec 4
  | .reg w => w.sel
  | .k => 4
  | .r => 5
  | .p => 6

/-- A limb index, 0..3 (20_memory.md R51). -/
def LimbIdx.ofSel (s : BitVec 4) : Option LimbIdx :=
  match s.toNat with
  | 0 => some .i0
  | 1 => some .i1
  | 2 => some .i2
  | 3 => some .i3
  | _ => none

/-- The code of a limb index. -/
def LimbIdx.sel : LimbIdx → BitVec 4
  | .i0 => 0
  | .i1 => 1
  | .i2 => 2
  | .i3 => 3

/-- A half index, 0..1 (20_memory.md R51). -/
def Half.ofSel (s : BitVec 4) : Option Half :=
  match s.toNat with
  | 0 => some .lo
  | 1 => some .hi
  | _ => none

/-- The code of a half index. -/
def Half.sel : Half → BitVec 4
  | .lo => 0
  | .hi => 1

/-- A status index, 0..3 (10_state.md R36). -/
def StatusIdx.ofSel (s : BitVec 4) : Option StatusIdx :=
  match s.toNat with
  | 0 => some .status
  | 1 => some .pos
  | 2 => some .lenLo
  | 3 => some .lenHi
  | _ => none

/-- The code of a status index. -/
def StatusIdx.sel : StatusIdx → BitVec 4
  | .status => 0
  | .pos => 1
  | .lenLo => 2
  | .lenHi => 3

/-- A constant index, 1..3 (10_state.md R26, 20_memory.md R51). -/
def KIdx.ofSel (s : BitVec 4) : Option KIdx :=
  match s.toNat with
  | 1 => some .k1
  | 2 => some .k2
  | 3 => some .k3
  | _ => none

/-- The code of a constant index. -/
def KIdx.sel : KIdx → BitVec 4
  | .k1 => 1
  | .k2 => 2
  | .k3 => 3

/-! ### The decoder

Each command checks its used fields in the order of 60_exceptions.md R204 (wide selects, `lsel`, `imm8`, unused fields), so
the code it reports is the lowest that applies. -/

/-- A used field that holds a reserved value raises `IllegalCommand` with the field's code (60_exceptions.md R202). -/
def need {α : Type} (c : ECode) : Option α → Except ECode α
  | some a => .ok a
  | none => .error c

/-- A used `imm8` outside its range raises EC_IMM (60_exceptions.md R202). -/
def needImm (ok : Bool) : Except ECode Unit := if ok then .ok () else .error .imm

/-- A nonzero unused field raises EC_MBZ (30_encoding.md R67). -/
def needZero (ok : Bool) : Except ECode Unit := if ok then .ok () else .error .mbz

/-- A command with no field (NOP, INIT128, LENBIND, HLMIX128, MIX128, INIT256; 30_encoding.md R71). -/
def decodePlain (i : Instr) (f : Fields) : Except ECode Instr := do
  needZero (f.rd == 0 && f.ra == 0 && f.rb == 0 && f.lsel == 0 && f.imm8 == 0)
  pure i

/-- A command with `rd` and `ra` (ADD256, SUB256, MULS256, XOR256; 30_encoding.md R71). -/
def decodeDstSrc (i : WReg → WSrc → Instr) (f : Fields) : Except ECode Instr := do
  let rd ← need .regsel (WReg.ofSel f.rd)
  let ra ← need .regsel (WSrc.ofSel f.ra)
  needZero (f.rb == 0 && f.lsel == 0 && f.imm8 == 0)
  pure (i rd ra)

/-- WRW (30_encoding.md R71). -/
def decodeWrw (f : Fields) (d : Limb) : Except ECode Instr := do
  let rd ← need .regsel (WReg.ofSel f.rd)
  let l ← need .lsel (LimbIdx.ofSel f.lsel)
  needZero (f.ra == 0 && f.rb == 0 && f.imm8 == 0)
  pure (.wrw rd l d)

/-- RDW (30_encoding.md R71). -/
def decodeRdw (f : Fields) : Except ECode Instr := do
  let ra ← need .regsel (WSrc.ofSel f.ra)
  let l ← need .lsel (LimbIdx.ofSel f.lsel)
  needZero (f.rd == 0 && f.rb == 0 && f.imm8 == 0)
  pure (.rdw ra l)

/-- A command whose one field is `lsel` (WRX, RDX, RDS, MULK128; 30_encoding.md R71). -/
def decodeLsel {α : Type} (sel : BitVec 4 → Option α) (i : α → Instr) (f : Fields) : Except ECode Instr := do
  let l ← need .lsel (sel f.lsel)
  needZero (f.rd == 0 && f.ra == 0 && f.rb == 0 && f.imm8 == 0)
  pure (i l)

/-- CMP256 (30_encoding.md R71). -/
def decodeCmp256 (f : Fields) : Except ECode Instr := do
  let ra ← need .regsel (WSrc.ofSel f.ra)
  let rb ← need .regsel (WSrc.ofSel f.rb)
  needZero (f.rd == 0 && f.lsel == 0 && f.imm8 == 0)
  pure (.cmp256 ra rb)

/-- RED256 (30_encoding.md R71). -/
def decodeRed256 (f : Fields) : Except ECode Instr := do
  let rd ← need .regsel (WReg.ofSel f.rd)
  needZero (f.ra == 0 && f.rb == 0 && f.lsel == 0 && f.imm8 == 0)
  pure (.red256 rd)

/-- MULW256 (30_encoding.md R71). -/
def decodeMulw256 (f : Fields) : Except ECode Instr := do
  let rd ← need .regsel (WReg.ofSel f.rd)
  let ra ← need .regsel (WSrc.ofSel f.ra)
  let rb ← need .regsel (WSrc.ofSel f.rb)
  needZero (f.lsel == 0 && f.imm8 == 0)
  pure (.mulw256 rd ra rb)

/-- A command whose one field is `imm8` (FOLDB, ROTL128, XSHR128, ABSORB256; 30_encoding.md R71). -/
def decodeImm (ok : Byte → Bool) (i : Byte → Instr) (f : Fields) : Except ECode Instr := do
  needImm (ok f.imm8)
  needZero (f.rd == 0 && f.ra == 0 && f.rb == 0 && f.lsel == 0)
  pure (i f.imm8)

/-- Every value of a byte is legal (FOLDB, ABSORB256; 30_encoding.md R71). -/
def anyByte (_ : Byte) : Bool := true

/-- The opcode map of 30_encoding.md R70 over the fields of a word; any other opcode is reserved (R73). -/
def decodeFields (f : Fields) (d : Limb) : Except ECode Instr :=
  match f.opcode.toNat with
  | 0x00 => decodePlain .nop f
  | 0x01 => decodeWrw f d
  | 0x02 => decodeRdw f
  | 0x03 => decodeLsel Half.ofSel (fun h => .wrx h d) f
  | 0x04 => decodeLsel Half.ofSel .rdx f
  | 0x05 => decodeLsel StatusIdx.ofSel .rds f
  | 0x10 => decodeDstSrc .add256 f
  | 0x11 => decodeDstSrc .sub256 f
  | 0x12 => decodeCmp256 f
  | 0x13 => decodeRed256 f
  | 0x14 => decodeDstSrc (fun rd ra => .muls256 rd ra d) f
  | 0x15 => decodeMulw256 f
  | 0x16 => decodeDstSrc .xor256 f
  | 0x20 => decodePlain .init128 f
  | 0x21 => decodeImm anyByte .foldb f
  | 0x22 => decodePlain .lenbind f
  | 0x23 => decodeImm rotAmountOk .rotl128 f
  | 0x24 => decodeLsel KIdx.ofSel .mulk128 f
  | 0x25 => decodePlain .hlmix128 f
  | 0x26 => decodeImm shiftAmountOk .xshr128 f
  | 0x27 => decodePlain .mix128 f
  | 0x30 => decodePlain .init256 f
  | 0x31 => decodeImm anyByte .absorb256 f
  | _ => .error .opcode

/-- The decoder: every 32-bit word with any data-in is one legal command or one cause of `IllegalCommand`
(30_encoding.md R67, 60_exceptions.md R201). -/
def decode (w : BitVec 32) (d : Limb) : Except ECode Instr := decodeFields (fieldsOf w) d

/-! ### The encoder -/

/-- The fields of a command's word, unused fields zero (30_encoding.md R70, R71). -/
def Instr.fields : Instr → Fields
  | .nop => ⟨0x00, 0, 0, 0, 0, 0⟩
  | .wrw rd l _ => ⟨0x01, rd.sel, 0, 0, l.sel, 0⟩
  | .rdw ra l => ⟨0x02, 0, ra.sel, 0, l.sel, 0⟩
  | .wrx h _ => ⟨0x03, 0, 0, 0, h.sel, 0⟩
  | .rdx h => ⟨0x04, 0, 0, 0, h.sel, 0⟩
  | .rds i => ⟨0x05, 0, 0, 0, i.sel, 0⟩
  | .add256 rd ra => ⟨0x10, rd.sel, ra.sel, 0, 0, 0⟩
  | .sub256 rd ra => ⟨0x11, rd.sel, ra.sel, 0, 0, 0⟩
  | .cmp256 ra rb => ⟨0x12, 0, ra.sel, rb.sel, 0, 0⟩
  | .red256 rd => ⟨0x13, rd.sel, 0, 0, 0, 0⟩
  | .muls256 rd ra _ => ⟨0x14, rd.sel, ra.sel, 0, 0, 0⟩
  | .mulw256 rd ra rb => ⟨0x15, rd.sel, ra.sel, rb.sel, 0, 0⟩
  | .xor256 rd ra => ⟨0x16, rd.sel, ra.sel, 0, 0, 0⟩
  | .init128 => ⟨0x20, 0, 0, 0, 0, 0⟩
  | .foldb b => ⟨0x21, 0, 0, 0, 0, b⟩
  | .lenbind => ⟨0x22, 0, 0, 0, 0, 0⟩
  | .rotl128 r => ⟨0x23, 0, 0, 0, 0, r⟩
  | .mulk128 k => ⟨0x24, 0, 0, 0, k.sel, 0⟩
  | .hlmix128 => ⟨0x25, 0, 0, 0, 0, 0⟩
  | .xshr128 s => ⟨0x26, 0, 0, 0, 0, s⟩
  | .mix128 => ⟨0x27, 0, 0, 0, 0, 0⟩
  | .init256 => ⟨0x30, 0, 0, 0, 0, 0⟩
  | .absorb256 b => ⟨0x31, 0, 0, 0, 0, b⟩

/-- The data-in sent with a command: its operand `D`, or 0 where it ignores it (30_encoding.md R68, R75). -/
def Instr.dataIn : Instr → Limb
  | .wrw _ _ d | .wrx _ d | .muls256 _ _ d => d
  | .nop | .rdw .. | .rdx .. | .rds .. | .add256 .. | .sub256 .. | .cmp256 .. | .red256 .. | .mulw256 .. | .xor256 ..
  | .init128 | .foldb .. | .lenbind | .rotl128 .. | .mulk128 .. | .hlmix128 | .xshr128 .. | .mix128 | .init256
  | .absorb256 .. => 0

/-- The command `(W, D)` of a well-formed instruction (30_encoding.md R65). -/
def encode (i : Instr) : BitVec 32 × Limb := (i.fields.word, i.dataIn)

/-! ### The encoding table of 30_encoding.md R71 as data

A second reading of R71, row by row, for the statements that hold the decoder against it. -/

/-- How a command uses a field: not at all (the `-` of R71), or with the legal values `lo..hi`. -/
inductive FieldUse where
  | unused
  | range (lo hi : Nat)
  deriving DecidableEq, Repr

/-- A used field that holds a reserved value. -/
def FieldUse.reserved (u : FieldUse) (v : Nat) : Bool :=
  match u with
  | .unused => false
  | .range lo hi => decide (v < lo ∨ hi < v)

/-- An unused field that is not zero. -/
def FieldUse.nonzero (u : FieldUse) (v : Nat) : Bool :=
  match u with
  | .unused => decide (v ≠ 0)
  | .range _ _ => false

/-- One row of the table of 30_encoding.md R71. -/
structure EncRow where
  opcode : Nat
  rd : FieldUse
  ra : FieldUse
  rb : FieldUse
  lsel : FieldUse
  imm8 : FieldUse
  mask : BitVec 32
  pattern : BitVec 32
  deriving DecidableEq, Repr

/-- A wide destination select field (30_encoding.md R66). -/
def FieldUse.dst : FieldUse := .range 0 3

/-- A wide source select field (30_encoding.md R66). -/
def FieldUse.src : FieldUse := .range 0 6

/-- The 23 rows of 30_encoding.md R71. -/
def encodingTable : List EncRow :=
  [⟨0x00, .unused, .unused, .unused, .unused, .unused, 0xffffffff, 0x00000000⟩,
   ⟨0x01, .dst, .unused, .unused, .range 0 3, .unused, 0xff0ff0ff, 0x01000000⟩,
   ⟨0x02, .unused, .src, .unused, .range 0 3, .unused, 0xfff0f0ff, 0x02000000⟩,
   ⟨0x03, .unused, .unused, .unused, .range 0 1, .unused, 0xfffff0ff, 0x03000000⟩,
   ⟨0x04, .unused, .unused, .unused, .range 0 1, .unused, 0xfffff0ff, 0x04000000⟩,
   ⟨0x05, .unused, .unused, .unused, .range 0 3, .unused, 0xfffff0ff, 0x05000000⟩] ++
  [⟨0x10, .dst, .src, .unused, .unused, .unused, 0xff00ffff, 0x10000000⟩,
   ⟨0x11, .dst, .src, .unused, .unused, .unused, 0xff00ffff, 0x11000000⟩,
   ⟨0x12, .unused, .src, .src, .unused, .unused, 0xfff00fff, 0x12000000⟩,
   ⟨0x13, .dst, .unused, .unused, .unused, .unused, 0xff0fffff, 0x13000000⟩,
   ⟨0x14, .dst, .src, .unused, .unused, .unused, 0xff00ffff, 0x14000000⟩,
   ⟨0x15, .dst, .src, .src, .unused, .unused, 0xff000fff, 0x15000000⟩,
   ⟨0x16, .dst, .src, .unused, .unused, .unused, 0xff00ffff, 0x16000000⟩] ++
  [⟨0x20, .unused, .unused, .unused, .unused, .unused, 0xffffffff, 0x20000000⟩,
   ⟨0x21, .unused, .unused, .unused, .unused, .range 0 255, 0xffffff00, 0x21000000⟩,
   ⟨0x22, .unused, .unused, .unused, .unused, .unused, 0xffffffff, 0x22000000⟩,
   ⟨0x23, .unused, .unused, .unused, .unused, .range 1 127, 0xffffff00, 0x23000000⟩,
   ⟨0x24, .unused, .unused, .unused, .range 1 3, .unused, 0xfffff0ff, 0x24000000⟩,
   ⟨0x25, .unused, .unused, .unused, .unused, .unused, 0xffffffff, 0x25000000⟩,
   ⟨0x26, .unused, .unused, .unused, .unused, .range 0 127, 0xffffff00, 0x26000000⟩,
   ⟨0x27, .unused, .unused, .unused, .unused, .unused, 0xffffffff, 0x27000000⟩] ++
  [⟨0x30, .unused, .unused, .unused, .unused, .unused, 0xffffffff, 0x30000000⟩,
   ⟨0x31, .unused, .unused, .unused, .unused, .range 0 255, 0xffffff00, 0x31000000⟩]

/-- A used field of the row holds a reserved value. -/
def EncRow.anyReserved (r : EncRow) (f : Fields) : Bool :=
  r.rd.reserved f.rd.toNat || r.ra.reserved f.ra.toNat || r.rb.reserved f.rb.toNat ||
    r.lsel.reserved f.lsel.toNat || r.imm8.reserved f.imm8.toNat

/-- An unused field of the row is not zero. -/
def EncRow.anyNonzero (r : EncRow) (f : Fields) : Bool :=
  r.rd.nonzero f.rd.toNat || r.ra.nonzero f.ra.toNat || r.rb.nonzero f.rb.toNat ||
    r.lsel.nonzero f.lsel.toNat || r.imm8.nonzero f.imm8.toNat

/-- The word is the row's command: mask and match agree and every used field is in its range (30_encoding.md R71). -/
def EncRow.legal (r : EncRow) (w : BitVec 32) : Bool :=
  decide (w &&& r.mask = r.pattern) && !r.anyReserved (fieldsOf w)

/-- The cause the checks of 60_exceptions.md R204 report for a word, in their order, read off the table; none for a legal
word. -/
def reportedCause (w : BitVec 32) : Option ECode :=
  let f := fieldsOf w
  match encodingTable.find? (fun r => r.opcode == f.opcode.toNat) with
  | none => some .opcode
  | some r =>
    if r.rd.reserved f.rd.toNat || r.ra.reserved f.ra.toNat || r.rb.reserved f.rb.toNat then some .regsel
    else if r.lsel.reserved f.lsel.toNat then some .lsel
    else if r.imm8.reserved f.imm8.toNat then some .imm
    else if r.anyNonzero f then some .mbz
    else none

/-! ### Words as the opcode table numbers their bits -/

/-- The command word of an instruction whose bits are `w`, of which the table gives `nbits`: bits 31:0 (30_encoding.md R65).
DESIGN CHOICE, log entry 11: `D` follows as bits 95:32. -/
def tableWord (nbits w : Nat) : BitVec 32 := BitVec.ofNat 32 (w % 2 ^ nbits)

/-- The data-in of an instruction whose bits are `w`, of which the table gives `nbits`: bits 95:32, and 0 where the table
gives none. DESIGN CHOICE, log entry 11. -/
def tableData (nbits w : Nat) : Limb := BitVec.ofNat 64 ((w % 2 ^ nbits) >>> 32)

/-- The instruction the decoder reads from an instruction whose bits are `w`, numbered as spec/opcode_table.json numbers
them; none where it refuses. -/
def decodeTableWord (nbits w : Nat) : Option Instr := (decode (tableWord nbits w) (tableData nbits w)).toOption

end Sys2Proof
end

