-- ==== Sys2Proof/Config.lean ====
section
/-! DEFINITION. The configuration record of SEYTAN-CORE (00_scope.md section 3) and the values the spec leaves open. -/

namespace Sys2Proof

/-- The configuration record: the constants that no command and no reset changes (00_scope.md R9 to R11, 10_state.md R25,
R26). The pure functions take it as an argument, so that the spec's illustrative sets can be put in; the machine runs with
`Config.params`. -/
structure Params where
  P : Wide
  K : Wide
  R : Wide
  K1 : Word128
  K2 : Word128
  K3 : Word128
  xInit : Word128
  deriving DecidableEq, Repr

/-- The modulus: the literal of 00_scope.md R9, limb 0 first. Log entry 7. -/
def Config.P : Wide := ⟨0xfffffc2fffffffff, 0xfffffffffffffffe, 0xffffffffffffffff, 0xffffffffffffffff⟩

/-- The multiplier constant of the 256-bit pipeline: an open parameter (00_scope.md R10). DESIGN CHOICE, log entry 5:
uninterpreted. -/
opaque Config.K : Wide

/-- The XOR constant of the 256-bit pipeline: an open parameter (00_scope.md R10). DESIGN CHOICE, log entry 5. -/
opaque Config.R : Wide

/-- The first multiplier of `mix`: an open parameter (00_scope.md R10). DESIGN CHOICE, log entry 5. -/
opaque Config.K1 : Word128

/-- The second multiplier of `mix`: an open parameter (00_scope.md R10). DESIGN CHOICE, log entry 5. -/
opaque Config.K2 : Word128

/-- The third multiplier of `mix`: an open parameter (00_scope.md R10). DESIGN CHOICE, log entry 5. -/
opaque Config.K3 : Word128

/-- The initial fold accumulator `X_INIT`: an open parameter; the recommended 0 is not assumed (00_scope.md R11). DESIGN
CHOICE, log entry 6. -/
opaque Config.xInit : Word128

/-- The configuration the machine runs with. -/
def Config.params : Params where
  P := Config.P
  K := Config.K
  R := Config.R
  K1 := Config.K1
  K2 := Config.K2
  K3 := Config.K3
  xInit := Config.xInit

/-- The bytes the 128-bit tool writes to the error stream on an invocation error: the text is not in the source
(91_not_in_source.md N10). DESIGN CHOICE, log entry 10: uninterpreted. -/
opaque Config.usageMessage : List Byte

/-- What stands between the two items the 128-bit tool prints: not explicit in the source (91_not_in_source.md N17). DESIGN
CHOICE, log entry 10: uninterpreted. -/
opaque Config.itemSeparator : List Byte

end Sys2Proof
end

