-- ==== Sys2Proof/Machine/Mix128.lean ====
section
/-! DEFINITION. The pure functions of the 128-bit mixer (41_mixer128.md), outside the machine (00_scope.md section 6). -/

namespace Sys2Proof

/-- `X[63:0]`, half 0 (10_state.md R28). -/
def lo64 (x : Word128) : BitVec 64 := x.extractLsb' 0 64

/-- `X[127:64]`, half 1 (10_state.md R28). -/
def hi64 (x : Word128) : BitVec 64 := x.extractLsb' 64 64

/-- `hi ++ lo`, the first in the high bits (00_scope.md section 5). -/
def join64 (hi lo : BitVec 64) : Word128 := hi ++ lo

/-- `fold_step(x, b) = (x * 257 + b) mod 2^128`, the byte unsigned (41_mixer128.md R122). -/
def foldStep (x : Word128) (b : Byte) : Word128 := x * 257 + b.setWidth 128

/-- `lenbind(x, len)` (41_mixer128.md R124). -/
def lenbind (x len : Word128) : Word128 := x ^^^ (len <<< 64) ^^^ len

/-- `rotl128(x, r)`, for `r` in 1..127 (41_mixer128.md R126); `ROTL128` uses it nowhere else. -/
def rotl128 (x : Word128) (r : Nat) : Word128 := (x <<< r) ||| (x >>> (128 - r))

/-- The constant `Kk` (10_state.md R26). -/
def Params.mulK (c : Params) : KIdx → Word128
  | .k1 => c.K1
  | .k2 => c.K2
  | .k3 => c.K3

/-- `X * Kk mod 2^128` (41_mixer128.md R128). -/
def mulk128 (c : Params) (k : KIdx) (x : Word128) : Word128 := x * c.mulK k

/-- `hlmix(x)`: the new high half is `lo`, the new low half is `hi xor lo` (41_mixer128.md R130, 90_conflicts.md C4). -/
def hlmix (x : Word128) : Word128 := join64 (lo64 x) (hi64 x ^^^ lo64 x)

/-- `xshr(x, s)`: the shift is logical (41_mixer128.md R132). -/
def xshr (x : Word128) (s : Nat) : Word128 := x ^^^ (x >>> s)

/-- `mix128(x)`: the ten stages in order, `K2` twice (41_mixer128.md R134). -/
def mix128 (c : Params) (x0 : Word128) : Word128 :=
  let x1 := mulk128 c .k1 x0
  let x2 := rotl128 x1 13
  let x3 := mulk128 c .k2 x2
  let x4 := hlmix x3
  let x5 := rotl128 x4 29
  let x6 := mulk128 c .k3 x5
  let x7 := xshr x6 37
  let x8 := xshr x7 67
  let x9 := mulk128 c .k2 x8
  xshr x9 41

/-- `fold_string(s)`: fold the bytes in order, then bind the length (41_mixer128.md R136). -/
def foldString (c : Params) (s : List Byte) : Word128 :=
  lenbind (s.foldl foldStep c.xInit) (BitVec.ofNat 128 s.length)

/-- `hash128(s) = mix128(fold_string(s))` (41_mixer128.md R137). -/
def hash128 (c : Params) (s : List Byte) : Word128 := mix128 c (foldString c s)

end Sys2Proof
end

