-- ==== Sys2Proof/Machine/State.lean ====
section
/-! DEFINITION. The state of SEYTAN-CORE as plain data (10_state.md R20), the host port beside it (30_encoding.md R65), the
reasons a step can stop (none), and the state after reset. -/

namespace Sys2Proof.Machine

open Sys2Proof

/-- The status bit of a response: 0 = OK, 1 = ERR (30_encoding.md R65). -/
inductive RespStatus where
  | ok | err
  deriving DecidableEq, Repr

/-- A response `(status, Q)` (30_encoding.md R65). -/
structure Response where
  status : RespStatus
  q : BitVec 64
  deriving DecidableEq, Repr

/-- The values a reset leaves in the registers it makes unspecified: a free input of the reset (10_state.md R37,
70_reset_and_hazards.md R225). -/
structure Draw where
  w0 : Wide
  w1 : Wide
  w2 : Wide
  w3 : Wide
  x : Word128
  len : Word128
  pos : BitVec 64
  deriving DecidableEq, Repr

/-- What the host does: present a command `(W, D)`, or reset the block (70_reset_and_hazards.md R233). -/
inductive HostAction where
  | command (w : BitVec 32) (d : Limb)
  | reset (draw : Draw)
  deriving DecidableEq, Repr

/-- The state of the machine. The last two fields are the model's own: the host port. -/
structure State where
  /-- `W0`, also SUM (10_state.md R21) -/
  w0 : Wide
  /-- `W1`, also TERM (10_state.md R21) -/
  w1 : Wide
  /-- `W2` (10_state.md R21) -/
  w2 : Wide
  /-- `W3` (10_state.md R21) -/
  w3 : Wide
  /-- `X`, the accumulator (10_state.md R27) -/
  x : Word128
  /-- `LEN`, the byte counter of the fold (10_state.md R30) -/
  len : Word128
  /-- `POS`, the byte position of the 256-bit pipeline (10_state.md R31) -/
  pos : BitVec 64
  /-- `STATUS.CMP` (10_state.md R32) -/
  cmp : BitVec 2
  /-- `STATUS.ERR` (10_state.md R32) -/
  err : Bool
  /-- `STATUS.ECODE` (10_state.md R32) -/
  ecode : BitVec 4
  /-- The model's own: the host's actions still to come, the next one first. DESIGN CHOICE, log entry 1. -/
  pending : List HostAction
  /-- The model's own: the responses returned so far, oldest first. DESIGN CHOICE, log entry 2. -/
  responses : List Response
  deriving DecidableEq, Repr

/-- Why the machine stops with a fault: never. The spec's one exception, `IllegalCommand`, is taken as a next state
(60_exceptions.md R203), and every command in every state has a next state (93_implementation_defined.md part 1). -/
inductive Fault where
  deriving DecidableEq, Repr

/-- Why an instruction has no meaning. -/
inductive Refusal where
  /-- Raised by `exec` for an instruction without a meaning yet; safe. No arm of `exec` raises it now. -/
  | notModelled (mnemonic : String)
  deriving DecidableEq, Repr

/-- The machine right after reset (10_state.md R37): `STATUS` is 0. DESIGN CHOICE, log entry 3, unsafe: the spec leaves
`W0`..`W3`, `X`, `LEN`, `POS` unspecified and this state holds 0 in them; a reset during a run draws them freely
(`HostAction.reset`). Nothing is pending and nothing has been answered (log entries 1 and 2). -/
def State.reset : State where
  w0 := Wide.zero
  w1 := Wide.zero
  w2 := Wide.zero
  w3 := Wide.zero
  x := 0
  len := 0
  pos := 0
  cmp := 0
  err := false
  ecode := 0
  pending := []
  responses := []

end Sys2Proof.Machine
end

