-- ==== Sys2Proof/Machine/Wide256.lean ====
section
/-! DEFINITION. The pure functions of the 256-bit unit (40_wide256.md), limb by limb as the spec writes them, outside the
machine (00_scope.md section 6). -/

namespace Sys2Proof

/-- Limb `i` of a wide value (20_memory.md R52). -/
def Wide.limb (v : Wide) : LimbIdx → Limb
  | .i0 => v.l0
  | .i1 => v.l1
  | .i2 => v.l2
  | .i3 => v.l3

/-- The wide value with one limb replaced, the other three kept (43_system_and_host.md R172). -/
def Wide.setLimb (v : Wide) (i : LimbIdx) (d : Limb) : Wide :=
  match i with
  | .i0 => { v with l0 := d }
  | .i1 => { v with l1 := d }
  | .i2 => { v with l2 := d }
  | .i3 => { v with l3 := d }

/-- `limbs(n)` of 00_scope.md section 5, for `n` below 2^256. -/
def Wide.ofNat (n : Nat) : Wide :=
  ⟨BitVec.ofNat 64 n, BitVec.ofNat 64 (n / 2 ^ 64), BitVec.ofNat 64 (n / 2 ^ 128), BitVec.ofNat 64 (n / 2 ^ 192)⟩

/-! ### Addition and subtraction -/

/-- One limb of the adder: the sum limb and the carry out (40_wide256.md R91). -/
def addLimb (r a : Limb) (carry : Nat) : Limb × Nat :=
  let t := r.toNat + a.toNat + carry
  (BitVec.ofNat 64 t, t / 2 ^ 64)

/-- `add256(r, a)`: the carry goes from limb to limb and the last one is dropped (40_wide256.md R91). -/
def add256 (r a : Wide) : Wide :=
  let t0 := addLimb r.l0 a.l0 0
  let t1 := addLimb r.l1 a.l1 t0.2
  let t2 := addLimb r.l2 a.l2 t1.2
  let t3 := addLimb r.l3 a.l3 t2.2
  ⟨t0.1, t1.1, t2.1, t3.1⟩

/-- One limb of the subtracter: the difference limb and the borrow out (40_wide256.md R93). -/
def subLimb (r m : Limb) (borrow : Nat) : Limb × Nat :=
  let t : Int := r.toNat - m.toNat - borrow
  if t < 0 then (BitVec.ofInt 64 (t + 2 ^ 64), 1) else (BitVec.ofInt 64 t, 0)

/-- `sub256(r, m)`: the borrow goes from limb to limb and the last one is dropped (40_wide256.md R93). -/
def sub256 (r m : Wide) : Wide :=
  let t0 := subLimb r.l0 m.l0 0
  let t1 := subLimb r.l1 m.l1 t0.2
  let t2 := subLimb r.l2 m.l2 t1.2
  let t3 := subLimb r.l3 m.l3 t2.2
  ⟨t0.1, t1.1, t2.1, t3.1⟩

/-! ### Comparison -/

/-- The three results of `compare`: -1, 0, +1 (00_scope.md R12, 40_wide256.md R95). -/
inductive CmpResult where
  | less | equal | greater
  deriving DecidableEq, Repr

/-- One limb pair, unsigned (40_wide256.md R95). -/
def cmpLimb (a b : Limb) : CmpResult :=
  if a.toNat < b.toNat then .less else if b.toNat < a.toNat then .greater else .equal

/-- A later limb pair decides only where the earlier ones are equal (40_wide256.md R95). -/
def CmpResult.orElse : CmpResult → CmpResult → CmpResult
  | .equal, c => c
  | .less, _ => .less
  | .greater, _ => .greater

/-- `cmp256(a, b)`: from limb 3 down to limb 0 (40_wide256.md R95). -/
def cmp256 (a b : Wide) : CmpResult :=
  (cmpLimb a.l3 b.l3).orElse ((cmpLimb a.l2 b.l2).orElse ((cmpLimb a.l1 b.l1).orElse (cmpLimb a.l0 b.l0)))

/-! ### Modular reduction -/

/-- The loop of `reduce_mod`: while `x` compares not less than `p`, subtract `p` (40_wide256.md R96); `fuel` bounds the
passes. DEDUCED, log entry 12: with the fuel of `reduceMod` the loop ends by its own test. -/
def reduceLoop (p : Wide) : Nat → Wide → Wide
  | 0, x => x
  | fuel + 1, x =>
    match cmp256 x p with
    | .less => x
    | .equal | .greater => reduceLoop p fuel (sub256 x p)

/-- `reduce_mod(x)` (40_wide256.md R96). Each pass takes `P` away without a wrap, so there are at most `x / P` of them. -/
def reduceMod (c : Params) (x : Wide) : Wide := reduceLoop c.P (x.val / c.P.val) x

/-! ### Multiplication -/

/-- One limb of the scalar multiplier: the product limb and the carry (40_wide256.md R99). -/
def mulLimb (a b : Limb) (carry : Nat) : Limb × Nat :=
  let t := a.toNat * b.toNat + carry
  (BitVec.ofNat 64 t, t / 2 ^ 64)

/-- `muls256(a, b)`: the fifth limb is dropped (40_wide256.md R99). -/
def muls256 (a : Wide) (b : Limb) : Wide :=
  let t0 := mulLimb a.l0 b 0
  let t1 := mulLimb a.l1 b t0.2
  let t2 := mulLimb a.l2 b t1.2
  let t3 := mulLimb a.l3 b t2.2
  ⟨t0.1, t1.1, t2.1, t3.1⟩

/-- `limbshift(pp, i)`: limbs pushed past limb 3 are dropped (40_wide256.md R101). -/
def limbShift (v : Wide) : LimbIdx → Wide
  | .i0 => v
  | .i1 => ⟨0, v.l0, v.l1, v.l2⟩
  | .i2 => ⟨0, 0, v.l0, v.l1⟩
  | .i3 => ⟨0, 0, 0, v.l0⟩

/-- One pass of the full multiplier: the shifted partial product of limb `i` is added (40_wide256.md R101). -/
def mulwPass (a b acc : Wide) (i : LimbIdx) : Wide := add256 acc (limbShift (muls256 a (b.limb i)) i)

/-- `mulw256(a, b)`: four partial products, cut to four limbs (40_wide256.md R101). -/
def mulw256 (a b : Wide) : Wide := [LimbIdx.i0, .i1, .i2, .i3].foldl (mulwPass a b) Wide.zero

/-! ### Exclusive or -/

/-- `xor256(r, x)`: limb by limb (40_wide256.md R103). -/
def xor256 (r x : Wide) : Wide := ⟨r.l0 ^^^ x.l0, r.l1 ^^^ x.l1, r.l2 ^^^ x.l2, r.l3 ^^^ x.l3⟩

/-! ### The 256-bit mixer (42_mixer256.md) -/

/-- What `absorb256` returns: the new sum, the new position, and the term as step 4 leaves it (42_mixer256.md R152). -/
structure Absorbed where
  sum : Wide
  pos : BitVec 64
  term : Wide
  deriving DecidableEq, Repr

/-- Step 1 of the loop body: `c = (b * (pos + 1)) mod 2^64`, the byte unsigned (42_mixer256.md R152). -/
def absorbScalar (pos : BitVec 64) (b : Byte) : Limb := BitVec.ofNat 64 (b.toNat * (pos.toNat + 1))

/-- Steps 2 to 4 of the loop body: the term (42_mixer256.md R152). -/
def absorbTerm (c : Params) (pos : BitVec 64) (b : Byte) : Wide :=
  xor256 (reduceMod c (muls256 c.K (absorbScalar pos b))) c.R

/-- `absorb256(sum, pos, b)`: steps 5 and 6 add the term and reduce (42_mixer256.md R152). -/
def absorb256 (c : Params) (sum : Wide) (pos : BitVec 64) (b : Byte) : Absorbed where
  sum := reduceMod c (add256 sum (absorbTerm c pos b))
  pos := pos + 1
  term := absorbTerm c pos b

/-- The loop of `hash256` over the bytes, from a sum and a position (42_mixer256.md R157). -/
def absorbString (c : Params) (sum : Wide) (pos : BitVec 64) : List Byte → Wide × BitVec 64
  | [] => (sum, pos)
  | b :: bs => absorbString c (absorb256 c sum pos b).sum (absorb256 c sum pos b).pos bs

/-- `hash256(s)` (42_mixer256.md R157). -/
def hash256 (c : Params) (s : List Byte) : Wide := reduceMod c (absorbString c Wide.zero 0 s).1

end Sys2Proof
end

