-- ==== Sys2Proof/Machine/Flags.lean ====
section
/-! DEFINITION. The status register (10_state.md R32) and the bits of the compare result. The block has no other flag (R34). -/

namespace Sys2Proof.Machine

open Sys2Proof

/-- The compare result in bits: -1 is 0b11, 0 is 0b00, +1 is 0b01 (00_scope.md R12). -/
def cmpBits : CmpResult → BitVec 2
  | .less => 0b11
  | .equal => 0b00
  | .greater => 0b01

/-- `sext_64` of the compare result, the data-out of CMP256 (30_encoding.md R69). -/
def cmpData (c : CmpResult) : BitVec 64 := (cmpBits c).signExtend 64

/-- The 4-bit cause code (60_exceptions.md R202). -/
def causeCode : ECode → BitVec 4
  | .opcode => 1
  | .regsel => 2
  | .lsel => 3
  | .imm => 4
  | .mbz => 5

/-- `zext_64(code)`, the data-out of an ERR response (30_encoding.md R69). -/
def causeData (c : ECode) : BitVec 64 := (causeCode c).setWidth 64

/-- STATUS as RDS index 0 reads it: ECODE in bits 7:4, bit 3 zero, ERR in bit 2, CMP in bits 1:0, the rest zero
(10_state.md R32). -/
def State.statusWord (s : State) : BitVec 64 :=
  (0 : BitVec 56) ++ s.ecode ++ (0 : BitVec 1) ++ BitVec.ofBool s.err ++ s.cmp

end Sys2Proof.Machine
end

