-- ==== Sys2Proof/Machine/Ops.lean ====
section
/-! DEFINITION. The named operations over the registers and the host port, taking the one exception, and reset. -/

namespace Sys2Proof.Machine

open Sys2Proof

/-- What a meaning answers. -/
abbrev StepOutcome := Host.Outcome State Fault Refusal

/-! ### Registers -/

/-- Read wide register `d` (10_state.md R21). -/
def State.wide (s : State) : WReg → Wide
  | .w0 => s.w0
  | .w1 => s.w1
  | .w2 => s.w2
  | .w3 => s.w3

/-- `W[d] <- v`: write one wide register and no other (10_state.md R22, R23). -/
def State.setWide (s : State) (d : WReg) (v : Wide) : State :=
  match d with
  | .w0 => { s with w0 := v }
  | .w1 => { s with w1 := v }
  | .w2 => { s with w2 := v }
  | .w3 => { s with w3 := v }

/-- `X <- v` (10_state.md R27). -/
def State.setX (s : State) (v : Word128) : State := { s with x := v }

/-- `LEN <- v`, by INIT128 and FOLDB alone (10_state.md R30). -/
def State.setLen (s : State) (v : Word128) : State := { s with len := v }

/-- `POS <- v`, by INIT256 and ABSORB256 alone (10_state.md R31). -/
def State.setPos (s : State) (v : BitVec 64) : State := { s with pos := v }

/-- `STATUS.CMP <- c`, by CMP256 alone (10_state.md R34). -/
def State.setCmp (s : State) (c : BitVec 2) : State := { s with cmp := c }

/-! ### The host port -/

/-- Return the response `(OK, q)` (30_encoding.md R65, R69). -/
def State.respond (s : State) (q : BitVec 64) : State := { s with responses := s.responses ++ [⟨.ok, q⟩] }

/-- The end of a command that executed: the state after its changes, with the response `(OK, q)` (20_memory.md R58). -/
def State.done (s : State) (q : BitVec 64) : StepOutcome := .next (s.respond q)

/-- Put the host's next actions in place. -/
def State.setPending (s : State) (as : List HostAction) : State := { s with pending := as }

/-- The host's next action, and the state in which it has been taken from the port; none when nothing is pending
(70_reset_and_hazards.md R233). -/
def fetchAction (s : State) : Option (HostAction × State) :=
  match s.pending with
  | [] => none
  | a :: rest => some (a, s.setPending rest)

/-! ### The exception (60_exceptions.md R203) -/

/-- Record a cause: the first fault since reset sets ERR and ECODE, a later one leaves STATUS alone (60_exceptions.md R203,
R206). -/
def State.recordFault (s : State) (c : ECode) : State :=
  if s.err then s else { s with err := true, ecode := causeCode c }

/-- Return the response `(ERR, zext_64(code))` (60_exceptions.md R203). -/
def State.respondErr (s : State) (c : ECode) : State := { s with responses := s.responses ++ [⟨.err, causeData c⟩] }

/-- `raise IllegalCommand(code)`, in full: no register, counter or CMP changes, the cause is recorded, the response is
`(ERR, code)`, and the next command is accepted as usual (60_exceptions.md R203). There is no handler and no return from it
(R206). -/
def State.raiseIllegal (s : State) (c : ECode) : State := (s.recordFault c).respondErr c

/-! ### Reset (70_reset_and_hazards.md R225) -/

/-- The state a reset leaves: STATUS is 0 and the other registers hold what the reset draws. The host port is the host's,
not the block's: a reset returns nothing and keeps what is pending (log entry 4). -/
def State.afterReset (s : State) (draw : Draw) : State :=
  { s with w0 := draw.w0, w1 := draw.w1, w2 := draw.w2, w3 := draw.w3, x := draw.x, len := draw.len, pos := draw.pos,
           cmp := 0, err := false, ecode := 0 }

end Sys2Proof.Machine
end

