-- ==== Sys2Proof/Machine/Operands.lean ====
section
/-! DEFINITION. The operand forms: wide sources, halves of `X`, and the registers RDS reads. -/

namespace Sys2Proof.Machine

open Sys2Proof

/-- `W[s]`: a wide source, register or constant (10_state.md R22, R25). -/
def State.readSrc (s : State) : WSrc → Wide
  | .reg w => s.wide w
  | .k => Config.params.K
  | .r => Config.params.R
  | .p => Config.params.P

/-- A half of `X` (10_state.md R28). -/
def readHalf (x : Word128) : Half → BitVec 64
  | .lo => lo64 x
  | .hi => hi64 x

/-- `X` with one half replaced, the other kept (43_system_and_host.md R174). -/
def writeHalf (x : Word128) (d : BitVec 64) : Half → Word128
  | .lo => join64 (hi64 x) d
  | .hi => join64 d (lo64 x)

/-- The value RDS returns for an index (10_state.md R36). -/
def State.readStatus (s : State) : StatusIdx → BitVec 64
  | .status => s.statusWord
  | .pos => s.pos
  | .lenLo => lo64 s.len
  | .lenHi => hi64 s.len

end Sys2Proof.Machine
end

