-- ==== Sys2Proof/Machine/Mixer128.lean ====
section
/-! DEFINITION. The meanings of the 128-bit mixer family (41_mixer128.md). No phase is tracked: each acts on whatever `X` and
`LEN` hold (R120). -/

namespace Sys2Proof.Machine

open Sys2Proof

/-- INIT128 (41_mixer128.md R121). -/
def execInit128 (s : State) : StepOutcome := ((s.setX Config.params.xInit).setLen 0).done 0

/-- FOLDB; LEN counts modulo 2^128 (41_mixer128.md R123). -/
def execFoldb (b : Byte) (s : State) : StepOutcome := ((s.setX (foldStep s.x b)).setLen (s.len + 1)).done 0

/-- LENBIND (41_mixer128.md R125). -/
def execLenbind (s : State) : StepOutcome := (s.setX (lenbind s.x s.len)).done 0

/-- ROTL128; an amount that is 0 or at least 128 raises `IllegalCommand(EC_IMM)` (41_mixer128.md R127). -/
def execRotl128 (amount : Byte) (s : State) : StepOutcome :=
  if rotAmountOk amount then (s.setX (rotl128 s.x amount.toNat)).done 0 else .next (s.raiseIllegal .imm)

/-- MULK128 (41_mixer128.md R128). -/
def execMulk128 (k : KIdx) (s : State) : StepOutcome := (s.setX (mulk128 Config.params k s.x)).done 0

/-- HLMIX128 (41_mixer128.md R131). -/
def execHlmix128 (s : State) : StepOutcome := (s.setX (hlmix s.x)).done 0

/-- XSHR128; an amount of at least 128 raises `IllegalCommand(EC_IMM)` (41_mixer128.md R133). -/
def execXshr128 (amount : Byte) (s : State) : StepOutcome :=
  if shiftAmountOk amount then (s.setX (xshr s.x amount.toNat)).done 0 else .next (s.raiseIllegal .imm)

/-- MIX128 (41_mixer128.md R135). -/
def execMix128 (s : State) : StepOutcome := (s.setX (mix128 Config.params s.x)).done 0

end Sys2Proof.Machine
end

