-- ==== Sys2Proof/Machine/Mixer256.lean ====
section
/-! DEFINITION. The meanings of the 256-bit mixer family (42_mixer256.md). No phase is tracked (R150). -/

namespace Sys2Proof.Machine

open Sys2Proof

/-- INIT256; `W1` is not changed (42_mixer256.md R151). -/
def execInit256 (s : State) : StepOutcome := ((s.setWide .w0 Wide.zero).setPos 0).done 0

/-- ABSORB256 on `W0`, `POS`, leaving the term in `W1` (42_mixer256.md R153). -/
def execAbsorb256 (b : Byte) (s : State) : StepOutcome :=
  let r := absorb256 Config.params s.w0 s.pos b
  (((s.setWide .w0 r.sum).setWide .w1 r.term).setPos r.pos).done 0

end Sys2Proof.Machine
end

