-- ==== Sys2Proof/Machine/System.lean ====
section
/-! DEFINITION. The meanings of NOP, WRW, RDW, WRX, RDX, RDS (43_system_and_host.md part 1). A reserved select or index never
reaches them: the decoder has raised `IllegalCommand` for it (60_exceptions.md R201, R202). -/

namespace Sys2Proof.Machine

open Sys2Proof

/-- NOP (43_system_and_host.md R171). -/
def execNop (s : State) : StepOutcome := s.done 0

/-- WRW: one limb of a wide register (43_system_and_host.md R172). -/
def execWrw (rd : WReg) (limb : LimbIdx) (d : Limb) (s : State) : StepOutcome :=
  (s.setWide rd ((s.wide rd).setLimb limb d)).done 0

/-- RDW: one limb of a wide source (43_system_and_host.md R173). -/
def execRdw (ra : WSrc) (limb : LimbIdx) (s : State) : StepOutcome := s.done ((s.readSrc ra).limb limb)

/-- WRX: one half of `X` (43_system_and_host.md R174). -/
def execWrx (half : Half) (d : Limb) (s : State) : StepOutcome := (s.setX (writeHalf s.x d half)).done 0

/-- RDX: one half of `X` (43_system_and_host.md R175). -/
def execRdx (half : Half) (s : State) : StepOutcome := s.done (readHalf s.x half)

/-- RDS: a status or counter register; reading STATUS clears nothing (43_system_and_host.md R176). -/
def execRds (idx : StatusIdx) (s : State) : StepOutcome := s.done (s.readStatus idx)

end Sys2Proof.Machine
end

