-- ==== Sys2Proof/Machine/WideFamily.lean ====
section
/-! DEFINITION. The meanings of the 256-bit wide-integer family (40_wide256.md). Every source is read in the state before the
command, so a destination may also be a source (10_state.md R23). -/

namespace Sys2Proof.Machine

open Sys2Proof

/-- ADD256 (40_wide256.md R92). -/
def execAdd256 (rd : WReg) (ra : WSrc) (s : State) : StepOutcome :=
  (s.setWide rd (add256 (s.wide rd) (s.readSrc ra))).done 0

/-- SUB256 (40_wide256.md R94). -/
def execSub256 (rd : WReg) (ra : WSrc) (s : State) : StepOutcome :=
  (s.setWide rd (sub256 (s.wide rd) (s.readSrc ra))).done 0

/-- CMP256: writes STATUS.CMP and returns it sign-extended (40_wide256.md R97). -/
def execCmp256 (ra rb : WSrc) (s : State) : StepOutcome :=
  (s.setCmp (cmpBits (cmp256 (s.readSrc ra) (s.readSrc rb)))).done (cmpData (cmp256 (s.readSrc ra) (s.readSrc rb)))

/-- RED256; its comparison does not reach STATUS.CMP (40_wide256.md R98, 10_state.md R34). -/
def execRed256 (rd : WReg) (s : State) : StepOutcome := (s.setWide rd (reduceMod Config.params (s.wide rd))).done 0

/-- MULS256 (40_wide256.md R100). -/
def execMuls256 (rd : WReg) (ra : WSrc) (d : Limb) (s : State) : StepOutcome :=
  (s.setWide rd (muls256 (s.readSrc ra) d)).done 0

/-- MULW256 (40_wide256.md R102). -/
def execMulw256 (rd : WReg) (ra rb : WSrc) (s : State) : StepOutcome :=
  (s.setWide rd (mulw256 (s.readSrc ra) (s.readSrc rb))).done 0

/-- XOR256 (40_wide256.md R104). -/
def execXor256 (rd : WReg) (ra : WSrc) (s : State) : StepOutcome :=
  (s.setWide rd (xor256 (s.wide rd) (s.readSrc ra))).done 0

end Sys2Proof.Machine
end

