-- ==== Sys2Proof/Machine/Dispatch.lean ====
section
/-! DEFINITION. The dispatch of a decoded command to its meaning (30_encoding.md R70), one arm per constructor. -/

namespace Sys2Proof.Machine

open Sys2Proof

/-- One command, executed (20_memory.md R58). -/
def exec (i : Instr) (s : State) : Host.Outcome State Fault Refusal :=
  match i with
  | .nop => Sys2Proof.Machine.execNop s
  | .wrw rd limb d => Sys2Proof.Machine.execWrw rd limb d s
  | .rdw ra limb => Sys2Proof.Machine.execRdw ra limb s
  | .wrx half d => Sys2Proof.Machine.execWrx half d s
  | .rdx half => Sys2Proof.Machine.execRdx half s
  | .rds idx => Sys2Proof.Machine.execRds idx s
  | .add256 rd ra => Sys2Proof.Machine.execAdd256 rd ra s
  | .sub256 rd ra => Sys2Proof.Machine.execSub256 rd ra s
  | .cmp256 ra rb => Sys2Proof.Machine.execCmp256 ra rb s
  | .red256 rd => Sys2Proof.Machine.execRed256 rd s
  | .muls256 rd ra d => Sys2Proof.Machine.execMuls256 rd ra d s
  | .mulw256 rd ra rb => Sys2Proof.Machine.execMulw256 rd ra rb s
  | .xor256 rd ra => Sys2Proof.Machine.execXor256 rd ra s
  | .init128 => Sys2Proof.Machine.execInit128 s
  | .foldb b => Sys2Proof.Machine.execFoldb b s
  | .lenbind => Sys2Proof.Machine.execLenbind s
  | .rotl128 amount => Sys2Proof.Machine.execRotl128 amount s
  | .mulk128 k => Sys2Proof.Machine.execMulk128 k s
  | .hlmix128 => Sys2Proof.Machine.execHlmix128 s
  | .xshr128 amount => Sys2Proof.Machine.execXshr128 amount s
  | .mix128 => Sys2Proof.Machine.execMix128 s
  | .init256 => Sys2Proof.Machine.execInit256 s
  | .absorb256 b => Sys2Proof.Machine.execAbsorb256 b s

end Sys2Proof.Machine
end

