-- ==== Sys2Proof/Machine/Command.lean ====
section
/-! DEFINITION. One command word presented by the host: decode it, then execute it or take `IllegalCommand`. -/

namespace Sys2Proof.Machine

open Sys2Proof

/-- A command `(W, D)`: the decoder raises before any state has changed (60_exceptions.md R201), else the command executes
to completion (20_memory.md R58). -/
def runCommand (w : BitVec 32) (d : Limb) (s : State) : StepOutcome :=
  match decode w d with
  | .ok i => exec i s
  | .error c => .next (s.raiseIllegal c)

/-- One action of the host (70_reset_and_hazards.md R233). -/
def runAction (a : HostAction) (s : State) : StepOutcome :=
  match a with
  | .command w d => runCommand w d s
  | .reset draw => .next (s.afterReset draw)

/-- The command that stands for an instruction whose bits are `w`, numbered as spec/opcode_table.json numbers them. -/
def tableAction (nbits w : Nat) : HostAction := .command (tableWord nbits w) (tableData nbits w)

end Sys2Proof.Machine
end

