-- ==== Sys2Proof/Machine/Step.lean ====
section
/-! DEFINITION. One step: the host's next action, whole (20_memory.md R58). The block has no program counter: it executes the
command it is given (10_state.md R33). -/

namespace Sys2Proof.Machine

open Sys2Proof

/-- One step of the machine. With nothing pending the block holds its state (60_exceptions.md R212, 70_reset_and_hazards.md
R227; log entry 8). -/
def step (s : State) : Host.Outcome State Fault Refusal :=
  match fetchAction s with
  | none => .next s
  | some (a, s') => runAction a s'

/-- `s` with an instruction presented as the host's next command, before everything else pending (log entry 1). -/
def State.withFetchWord (s : State) (nbits w : Nat) : State := s.setPending (tableAction nbits w :: s.pending)

end Sys2Proof.Machine
end

