-- ==== Sys2Proof/Machine/HostText.lean ====
section
/-! DEFINITION. The host side of the digests (43_system_and_host.md part 2): the hex text and the two command-line tools,
outside the block (00_scope.md R5), and the assembly text of a command (30_encoding.md R75). -/

namespace Sys2Proof

/-- One of the digits `0123456789abcdef`. -/
def hexDigit (n : Nat) : Char :=
  if n < 10 then Char.ofNat (48 + n) else Char.ofNat (87 + n)

/-- The `digits` lowest hex digits of a number, most significant first: the character at place `digits - 1 - j` is the digit
of bits `4j+3..4j` (43_system_and_host.md R180). -/
def hexText : Nat → Nat → List Char
  | 0, _ => []
  | digits + 1, n => hexText digits (n / 16) ++ [hexDigit (n % 16)]

/-- `hex128(x)`: 32 digits, no prefix (43_system_and_host.md R180). -/
def hex128 (x : Word128) : List Char := hexText 32 x.toNat

/-- `hex256(v)`: limb 3, then 2, 1, 0, each as 16 digits; the line terminator is printed by the tool (43_system_and_host.md
R181). -/
def hex256 (v : Wide) : List Char :=
  hexText 16 v.l3.toNat ++ hexText 16 v.l2.toNat ++ hexText 16 v.l1.toNat ++ hexText 16 v.l0.toNat

/-! ### The command-line tools (43_system_and_host.md R182, R183, R184) -/

/-- The bytes of a text of the tools, one a character. DESIGN CHOICE, log entry 17: the spec gives no text encoding
(91_not_in_source.md N16) and the model takes ASCII. -/
def asciiBytes (cs : List Char) : List Byte := cs.map (fun c => BitVec.ofNat 8 c.toNat)

/-- What a run of a tool shows: the two streams and the exit status. -/
structure ToolRun where
  out : List Byte
  err : List Byte
  exitStatus : Nat
  deriving DecidableEq, Repr

/-- The line terminator, also called newline (43_system_and_host.md R181 to R183). DESIGN CHOICE, log entry 18: the spec does not
say which byte or bytes it is and the model takes the one byte 0x0a. -/
def newline : List Byte := [0x0a]

/-- The 128-bit tool on its arguments after the name: `hash <input-string>`. Anything else is an invocation error: a message on
the error stream and status 1 (43_system_and_host.md R182). Log entry 10: the message and the separator are uninterpreted,
and what is printed on success goes to the output stream. Log entries 17 and 18: the bytes of the text and of the newline. -/
def tool128 (c : Params) : List (List Byte) → ToolRun
  | sub :: input :: _ =>
    if sub = asciiBytes "hash".toList then
      { out := asciiBytes "Input: ".toList ++ input ++ Config.itemSeparator ++
          asciiBytes "128-bit hash (32 hex digits): ".toList ++ asciiBytes (hex128 (hash128 c input)) ++ newline
        err := []
        exitStatus := 0 }
    else { out := [], err := Config.usageMessage, exitStatus := 1 }
  | _ => { out := [], err := Config.usageMessage, exitStatus := 1 }

/-- The 256-bit tool on its arguments after the name: `<input-string>`. With none it exits with status 1 and no message
(43_system_and_host.md R183). Log entries 10, 17 and 18. -/
def tool256 (c : Params) : List (List Byte) → ToolRun
  | input :: _ => { out := asciiBytes (hex256 (hash256 c input)) ++ newline, err := [], exitStatus := 0 }
  | [] => { out := [], err := [], exitStatus := 1 }

/-! ### Assembly text (30_encoding.md R75) -/

/-- The name of a wide register. -/
def WReg.name : WReg → String
  | .w0 => "W0"
  | .w1 => "W1"
  | .w2 => "W2"
  | .w3 => "W3"

/-- The name of a wide source. -/
def WSrc.name : WSrc → String
  | .reg w => w.name
  | .k => "K"
  | .r => "R"
  | .p => "P"

/-- The name of a status register. -/
def StatusIdx.name : StatusIdx → String
  | .status => "STATUS"
  | .pos => "POS"
  | .lenLo => "LEN_LO"
  | .lenHi => "LEN_HI"

/-- An index or amount as a bare decimal number. -/
def decimalText (n : Nat) : String := String.ofList (Nat.toDigits 10 n)

/-- `, D=` and the value of the data-in. DESIGN CHOICE, log entry 13: in hexadecimal without leading zeros. -/
def dataText (d : Limb) : String := ", D=0x" ++ String.ofList (Nat.toDigits 16 d.toNat)

/-- The assembly text of a command: the mnemonic, then its used fields (30_encoding.md R75). -/
def assembly : Instr → String
  | .nop => "NOP"
  | .wrw rd l d => "WRW " ++ rd.name ++ "." ++ decimalText l.sel.toNat ++ dataText d
  | .rdw ra l => "RDW " ++ ra.name ++ "." ++ decimalText l.sel.toNat
  | .wrx h d => "WRX " ++ decimalText h.sel.toNat ++ dataText d
  | .rdx h => "RDX " ++ decimalText h.sel.toNat
  | .rds i => "RDS " ++ i.name
  | .add256 rd ra => "ADD256 " ++ rd.name ++ ", " ++ ra.name
  | .sub256 rd ra => "SUB256 " ++ rd.name ++ ", " ++ ra.name
  | .cmp256 ra rb => "CMP256 " ++ ra.name ++ ", " ++ rb.name
  | .red256 rd => "RED256 " ++ rd.name
  | .muls256 rd ra d => "MULS256 " ++ rd.name ++ ", " ++ ra.name ++ dataText d
  | .mulw256 rd ra rb => "MULW256 " ++ rd.name ++ ", " ++ ra.name ++ ", " ++ rb.name
  | .xor256 rd ra => "XOR256 " ++ rd.name ++ ", " ++ ra.name
  | .init128 => "INIT128"
  | .foldb b => "FOLDB #" ++ decimalText b.toNat
  | .lenbind => "LENBIND"
  | .rotl128 r => "ROTL128 #" ++ decimalText r.toNat
  | .mulk128 k => "MULK128 " ++ decimalText k.sel.toNat
  | .hlmix128 => "HLMIX128"
  | .xshr128 s => "XSHR128 #" ++ decimalText s.toNat
  | .mix128 => "MIX128"
  | .init256 => "INIT256"
  | .absorb256 b => "ABSORB256 #" ++ decimalText b.toNat

/-! ### Reading assembly text (30_encoding.md R75) -/

/-- The text between separators. -/
def splitText (sep : Char) : List Char → List (List Char)
  | [] => [[]]
  | c :: cs =>
    if c = sep then [] :: splitText sep cs
    else match splitText sep cs with
      | [] => [[c]]
      | w :: ws => (c :: w) :: ws

/-- The text without the spaces around it. -/
def trimText (cs : List Char) : List Char :=
  ((cs.dropWhile (· == ' ')).reverse.dropWhile (· == ' ')).reverse

/-- The value of a digit of either case; none where it is no digit of the base. -/
def digitValue (base : Nat) (c : Char) : Option Nat :=
  let v := if '0' ≤ c ∧ c ≤ '9' then c.toNat - 48
    else if 'a' ≤ c ∧ c ≤ 'f' then c.toNat - 87
    else if 'A' ≤ c ∧ c ≤ 'F' then c.toNat - 55
    else base
  if v < base then some v else none

/-- The number a run of digits stands for, most significant first, after what has been read. -/
def readDigits (base : Nat) : Nat → List Char → Option Nat
  | n, [] => some n
  | n, c :: cs => (digitValue base c).bind fun v => readDigits base (n * base + v) cs

/-- A number: hexadecimal after `0x`, else decimal; `_` separates digits (00_scope.md section 5). -/
def readNumber (cs : List Char) : Option Nat :=
  match cs.filter (· != '_') with
  | [] => none
  | ['0', 'x'] => none
  | '0' :: 'x' :: ds => readDigits 16 0 ds
  | ds => readDigits 10 0 ds

/-- A wide register by name; `SUM` and `TERM` are accepted for `W0` and `W1` (30_encoding.md R75). -/
def readWReg (cs : List Char) : Option WReg :=
  match cs with
  | ['W', '0'] | ['S', 'U', 'M'] => some .w0
  | ['W', '1'] | ['T', 'E', 'R', 'M'] => some .w1
  | ['W', '2'] => some .w2
  | ['W', '3'] => some .w3
  | _ => none

/-- A wide source by name (30_encoding.md R75). -/
def readWSrc (cs : List Char) : Option WSrc :=
  match cs with
  | ['K'] => some .k
  | ['R'] => some .r
  | ['P'] => some .p
  | _ => (readWReg cs).map .reg

/-- An index number below 16 through its select code (30_encoding.md R75). -/
def readIndex {α : Type} (sel : BitVec 4 → Option α) (cs : List Char) : Option α :=
  (readNumber cs).bind fun n => if n < 16 then sel (BitVec.ofNat 4 n) else none

/-- A register and a limb, written `W2.3` (30_encoding.md R75). -/
def readLimb {α : Type} (reg : List Char → Option α) (cs : List Char) : Option (α × LimbIdx) :=
  match splitText '.' cs with
  | [r, i] => (reg r).bind fun r => (readIndex LimbIdx.ofSel i).map fun i => (r, i)
  | _ => none

/-- A status register by name (30_encoding.md R75). -/
def readStatusName (cs : List Char) : Option StatusIdx :=
  [StatusIdx.status, .pos, .lenLo, .lenHi].find? fun i => i.name.toList == cs

/-- `imm8`, written with `#` (30_encoding.md R75). -/
def readImm (cs : List Char) : Option Byte :=
  match cs with
  | '#' :: ds => (readNumber ds).bind fun n => if n < 256 then some (BitVec.ofNat 8 n) else none
  | _ => none

/-- The data-in, written `D=` (30_encoding.md R75). -/
def readData (cs : List Char) : Option Limb :=
  match cs with
  | 'D' :: '=' :: ds => (readNumber ds).bind fun n => if n < 2 ^ 64 then some (BitVec.ofNat 64 n) else none
  | _ => none

/-- A command from its mnemonic and its operands in the order of 30_encoding.md R75. -/
def readCommand (mnemonic : String) (ops : List (List Char)) : Option Instr :=
  match mnemonic, ops with
  | "NOP", [] => some .nop
  | "WRW", [a, d] => (readLimb readWReg a).bind fun rl => (readData d).map fun d => .wrw rl.1 rl.2 d
  | "RDW", [a] => (readLimb readWSrc a).map fun rl => .rdw rl.1 rl.2
  | "WRX", [a, d] => (readIndex Half.ofSel a).bind fun h => (readData d).map fun d => .wrx h d
  | "RDX", [a] => (readIndex Half.ofSel a).map .rdx
  | "RDS", [a] => (readStatusName a).map .rds
  | "ADD256", [a, b] => (readWReg a).bind fun rd => (readWSrc b).map fun ra => .add256 rd ra
  | "SUB256", [a, b] => (readWReg a).bind fun rd => (readWSrc b).map fun ra => .sub256 rd ra
  | "CMP256", [a, b] => (readWSrc a).bind fun ra => (readWSrc b).map fun rb => .cmp256 ra rb
  | "RED256", [a] => (readWReg a).map .red256
  | "MULS256", [a, b, d] =>
    (readWReg a).bind fun rd => (readWSrc b).bind fun ra => (readData d).map fun d => .muls256 rd ra d
  | "MULW256", [a, b, c] =>
    (readWReg a).bind fun rd => (readWSrc b).bind fun ra => (readWSrc c).map fun rb => .mulw256 rd ra rb
  | "XOR256", [a, b] => (readWReg a).bind fun rd => (readWSrc b).map fun ra => .xor256 rd ra
  | "INIT128", [] => some .init128
  | "FOLDB", [a] => (readImm a).map .foldb
  | "LENBIND", [] => some .lenbind
  | "ROTL128", [a] => (readImm a).map .rotl128
  | "MULK128", [a] => (readIndex KIdx.ofSel a).map .mulk128
  | "HLMIX128", [] => some .hlmix128
  | "XSHR128", [a] => (readImm a).map .xshr128
  | "MIX128", [] => some .mix128
  | "INIT256", [] => some .init256
  | "ABSORB256", [a] => (readImm a).map .absorb256
  | _, _ => none

/-- The command a line of assembly text stands for: the mnemonic, a space, the operands separated by commas (30_encoding.md
R75); none where the text is not one. DESIGN CHOICE, log entry 13: the exact grammar. -/
def assemble (text : List Char) : Option Instr :=
  let line := trimText text
  let rest := trimText (line.dropWhile (· != ' '))
  readCommand (String.ofList (line.takeWhile (· != ' ')))
    (match rest with
      | [] => []
      | _ :: _ => (splitText ',' rest).map trimText)

end Sys2Proof
end

