-- ==== Sys2Proof/Machine/Pseudo.lean ====
section
/-! DEFINITION. The pseudo-instructions of 30_encoding.md R76 as the commands they stand for, and the command sequences that
R135 and R154 call equal to a composite command. None has an encoding of its own. -/

namespace Sys2Proof

/-- FINAL256 (30_encoding.md R76, 42_mixer256.md R155). -/
def final256 : List Instr := [.red256 .w0]

/-- `LDW Wd, v` (30_encoding.md R76). -/
def ldw (d : WReg) (v : Wide) : List Instr := [LimbIdx.i0, .i1, .i2, .i3].map (fun i => .wrw d i (v.limb i))

/-- `LDX v` (30_encoding.md R76). -/
def ldx (v : Word128) : List Instr := [.wrx .lo (lo64 v), .wrx .hi (hi64 v)]

/-- `HASH128 s` (30_encoding.md R76). -/
def hash128Commands (s : List Byte) : List Instr := .init128 :: s.map .foldb ++ [.lenbind, .mix128]

/-- `HASH256 s` (30_encoding.md R76). -/
def hash256Commands (s : List Byte) : List Instr := .init256 :: s.map .absorb256 ++ final256

/-- `MODMUL256 Wd, a, b` (30_encoding.md R76, 40_wide256.md R105). -/
def modmul256 (d : WReg) (a b : WSrc) : List Instr := [.mulw256 d a b, .red256 d]

/-- The ten commands that MIX128 equals in effect (41_mixer128.md R135). -/
def mix128Primitives : List Instr :=
  [.mulk128 .k1, .rotl128 13, .mulk128 .k2, .hlmix128, .rotl128 29, .mulk128 .k3, .xshr128 37, .xshr128 67, .mulk128 .k2,
   .xshr128 41]

/-- The five commands that ABSORB256 equals in effect on `W0` and `W1`, for the scalar `c` the host computes (42_mixer256.md
R154). -/
def absorb256Primitives (c : Limb) : List Instr :=
  [.muls256 .w1 .k c, .red256 .w1, .xor256 .w1 .r, .add256 .w0 (.reg .w1), .red256 .w0]

namespace Machine

/-- The host's actions that issue these commands in order (70_reset_and_hazards.md R233). -/
def issue (is : List Instr) : List HostAction := is.map (fun i => .command (encode i).1 (encode i).2)

/-- Commands executed one after another on a state (10_state.md R33: a left fold over the list). -/
def execAll : List Instr → State → StepOutcome
  | [], s => .next s
  | i :: is, s =>
    match exec i s with
    | .next s' => execAll is s'
    | .fault r => .fault r
    | .refused r => .refused r

end Machine

end Sys2Proof
end

