-- ==== Sys2Proof/Safety.lean ====
section
/-! DEFINITION. The terms the statements use: what a command keeps, what a legal status is, and which commands write a pipeline's
registers. -/

namespace Sys2Proof

/-- The command writes `X` or `LEN` (10_state.md R20, the column 'written by'). -/
def Instr.writesMixer128 : Instr → Bool
  | .wrx .. | .init128 | .foldb .. | .lenbind | .rotl128 .. | .mulk128 .. | .hlmix128 | .xshr128 .. | .mix128 => true
  | .nop | .wrw .. | .rdw .. | .rdx .. | .rds .. | .add256 .. | .sub256 .. | .cmp256 .. | .red256 .. | .muls256 ..
  | .mulw256 .. | .xor256 .. | .init256 | .absorb256 .. => false

/-- The wide registers a command writes (10_state.md R20, the column 'written by'). -/
def Instr.wideDests : Instr → List WReg
  | .wrw rd .. | .add256 rd .. | .sub256 rd .. | .red256 rd | .muls256 rd .. | .mulw256 rd .. | .xor256 rd .. => [rd]
  | .init256 => [.w0]
  | .absorb256 .. => [.w0, .w1]
  | .nop | .rdw .. | .wrx .. | .rdx .. | .rds .. | .cmp256 .. | .init128 | .foldb .. | .lenbind | .rotl128 .. | .mulk128 ..
  | .hlmix128 | .xshr128 .. | .mix128 => []

/-- The command writes `W0` or `POS`, the registers of the 256-bit pipeline (70_reset_and_hazards.md R229). -/
def Instr.writesMixer256 (i : Instr) : Bool := i.wideDests.contains .w0

/-- The command is one of the 128-bit mixer family (41_mixer128.md). -/
def Instr.inMixer128 : Instr → Bool
  | .init128 | .foldb .. | .lenbind | .rotl128 .. | .mulk128 .. | .hlmix128 | .xshr128 .. | .mix128 => true
  | .nop | .wrw .. | .rdw .. | .wrx .. | .rdx .. | .rds .. | .add256 .. | .sub256 .. | .cmp256 .. | .red256 .. | .muls256 ..
  | .mulw256 .. | .xor256 .. | .init256 | .absorb256 .. => false

/-- The command is one of the 256-bit mixer family (42_mixer256.md). -/
def Instr.inMixer256 : Instr → Bool
  | .init256 | .absorb256 .. => true
  | .nop | .wrw .. | .rdw .. | .wrx .. | .rdx .. | .rds .. | .add256 .. | .sub256 .. | .cmp256 .. | .red256 .. | .muls256 ..
  | .mulw256 .. | .xor256 .. | .init128 | .foldb .. | .lenbind | .rotl128 .. | .mulk128 .. | .hlmix128 | .xshr128 ..
  | .mix128 => false

/-- The command is one of the wide-integer family (40_wide256.md). -/
def Instr.inWide256 : Instr → Bool
  | .add256 .. | .sub256 .. | .cmp256 .. | .red256 .. | .muls256 .. | .mulw256 .. | .xor256 .. => true
  | .nop | .wrw .. | .rdw .. | .wrx .. | .rdx .. | .rds .. | .init128 | .foldb .. | .lenbind | .rotl128 .. | .mulk128 ..
  | .hlmix128 | .xshr128 .. | .mix128 | .init256 | .absorb256 .. => false

/-- The command is a CMP256. -/
def Instr.isCmp256 : Instr → Bool
  | .cmp256 .. => true
  | .nop | .wrw .. | .rdw .. | .wrx .. | .rdx .. | .rds .. | .add256 .. | .sub256 .. | .red256 .. | .muls256 .. | .mulw256 ..
  | .xor256 .. | .init128 | .foldb .. | .lenbind | .rotl128 .. | .mulk128 .. | .hlmix128 | .xshr128 .. | .mix128 | .init256
  | .absorb256 .. => false

/-- The command uses its data-in `D` (30_encoding.md R68). -/
def Instr.usesData : Instr → Bool
  | .wrw .. | .wrx .. | .muls256 .. => true
  | .nop | .rdw .. | .rdx .. | .rds .. | .add256 .. | .sub256 .. | .cmp256 .. | .red256 .. | .mulw256 .. | .xor256 ..
  | .init128 | .foldb .. | .lenbind | .rotl128 .. | .mulk128 .. | .hlmix128 | .xshr128 .. | .mix128 | .init256
  | .absorb256 .. => false

namespace Machine

/-- What the host has issued is a reset. -/
def HostAction.isReset : HostAction → Bool
  | .command .. => false
  | .reset .. => true

/-- The legal command an action issues; none for an illegal word and for a reset. -/
def HostAction.legal : HostAction → Option Instr
  | .command w d => (decode w d).toOption
  | .reset .. => none

/-- The legal command an action issues, where it writes the registers of the 128-bit pipeline. -/
def HostAction.mixer128 (a : HostAction) : Option Instr := a.legal.filter Instr.writesMixer128

/-- The legal command an action issues, where it writes the registers of the 256-bit pipeline. -/
def HostAction.mixer256 (a : HostAction) : Option Instr := a.legal.filter Instr.writesMixer256

/-- Every wide register is unchanged. -/
def KeepsWide (s t : State) : Prop := ∀ r, t.wide r = s.wide r

/-- Every wide register but `d` is unchanged. -/
def KeepsWideBut (d : WReg) (s t : State) : Prop := ∀ r, r ≠ d → t.wide r = s.wide r

/-- `X` and `LEN` are unchanged. -/
def KeepsMixer128 (s t : State) : Prop := t.x = s.x ∧ t.len = s.len

/-- STATUS is unchanged in every field. -/
def KeepsStatus (s t : State) : Prop := t.cmp = s.cmp ∧ t.err = s.err ∧ t.ecode = s.ecode

/-- The command was answered `(OK, q)`, once, and what the host has still to issue is unchanged. -/
def AnswersOk (q : BitVec 64) (s t : State) : Prop := t.responses = s.responses ++ [⟨.ok, q⟩] ∧ t.pending = s.pending

/-- The command was answered `(ERR, code)`, once, and what the host has still to issue is unchanged. -/
def AnswersErr (c : ECode) (s t : State) : Prop :=
  t.responses = s.responses ++ [⟨.err, causeData c⟩] ∧ t.pending = s.pending

/-- The effects of `IllegalCommand(c)` on the block, all of them (60_exceptions.md R203): no register, counter or CMP
changes; the first cause since reset is recorded in ERR and ECODE and a later one is not; the response is `(ERR, c)`. -/
def TakesIllegal (c : ECode) (s t : State) : Prop :=
  KeepsWide s t ∧ KeepsMixer128 s t ∧ t.pos = s.pos ∧ t.cmp = s.cmp ∧
    (s.err = false → t.err = true ∧ t.ecode = causeCode c) ∧ (s.err = true → t.err = true ∧ t.ecode = s.ecode) ∧
    AnswersErr c s t

/-- The registers of two states agree: everything the spec gives the block but STATUS.ERR and STATUS.ECODE. -/
def SameRegisters (s t : State) : Prop := KeepsWide s t ∧ KeepsMixer128 s t ∧ t.pos = s.pos ∧ t.cmp = s.cmp

/-- The whole architectural state of 10_state.md R20 is unchanged. -/
def SameBlock (s t : State) : Prop := KeepsWide s t ∧ KeepsMixer128 s t ∧ t.pos = s.pos ∧ KeepsStatus s t

/-- STATUS is one the block can show: CMP is never 0b10 (00_scope.md R12), the cause is 0 exactly while ERR is 0
(10_state.md R32), and a cause above 5 is never produced (60_exceptions.md R202). -/
def StatusLegal (s : State) : Prop := s.cmp ≠ 0b10 ∧ (s.err = true ↔ s.ecode ≠ 0) ∧ s.ecode.toNat ≤ 5

end Machine

end Sys2Proof
end

