-- ==== Sys2Proof/Certificates/Slice0/Obligations.lean ====
section
/-! DEFINITION. The statements about SEYTAN-CORE, from the numbered rules of spec/. -/

open Sys2Proof Sys2Proof.Machine

/-! ### System and data movement (43_system_and_host.md) -/

/-- R171: the only NOP word is 0, any other word with opcode 0 raises EC_MBZ, and NOP changes nothing but to answer
`(OK, 0)`. -/
def Obligations.NopOnlyAnswers : Prop :=
  (∀ d, decode 0 d = .ok .nop) ∧
  (∀ w d, (fieldsOf w).opcode = 0x00 → w ≠ 0 → decode w d = .error .mbz) ∧
  ∀ s, ∃ t, exec .nop s = .next t ∧ SameBlock s t ∧ AnswersOk 0 s t

/-- R172: WRW writes the named limb of the named register with `D`, keeps the other three limbs and everything else, and
answers `(OK, 0)`; a reserved `rd` or `lsel` raises its code. -/
def Obligations.WrwWritesOneLimb : Prop :=
  (∀ rd l d, decode (Fields.mk 0x01 rd.sel 0 0 l.sel 0).word d = .ok (.wrw rd l d)) ∧
  (∀ w d, (fieldsOf w).opcode = 0x01 → 3 < (fieldsOf w).rd.toNat → decode w d = .error .regsel) ∧
  (∀ w d, (fieldsOf w).opcode = 0x01 → (fieldsOf w).rd.toNat ≤ 3 → 3 < (fieldsOf w).lsel.toNat →
    decode w d = .error .lsel) ∧
  ∀ rd l d s, ∃ t, exec (.wrw rd l d) s = .next t ∧ (t.wide rd).limb l = d ∧
    (∀ j, j ≠ l → (t.wide rd).limb j = (s.wide rd).limb j) ∧
    KeepsWideBut rd s t ∧ KeepsMixer128 s t ∧ t.pos = s.pos ∧ KeepsStatus s t ∧ AnswersOk 0 s t

/-- R173: RDW answers the named limb of a register or constant and changes nothing; the limbs of `P` read as the two example
words say; a reserved `ra` or `lsel` raises its code. -/
def Obligations.RdwReadsOneLimb : Prop :=
  (∀ ra l d, decode (Fields.mk 0x02 0 ra.sel 0 l.sel 0).word d = .ok (.rdw ra l)) ∧
  (∀ w d, (fieldsOf w).opcode = 0x02 → 6 < (fieldsOf w).ra.toNat → decode w d = .error .regsel) ∧
  (∀ w d, (fieldsOf w).opcode = 0x02 → (fieldsOf w).ra.toNat ≤ 6 → 3 < (fieldsOf w).lsel.toNat →
    decode w d = .error .lsel) ∧
  (∀ r l s, ∃ t, exec (.rdw (.reg r) l) s = .next t ∧ SameBlock s t ∧ AnswersOk ((s.wide r).limb l) s t) ∧
  (∀ l s, ∃ t, exec (.rdw .k l) s = .next t ∧ SameBlock s t ∧ AnswersOk (Config.K.limb l) s t) ∧
  (∀ l s, ∃ t, exec (.rdw .r l) s = .next t ∧ SameBlock s t ∧ AnswersOk (Config.R.limb l) s t) ∧
  (∀ s, ∃ t, exec (.rdw .p .i0) s = .next t ∧ SameBlock s t ∧ AnswersOk 0xfffffc2fffffffff s t) ∧
  (∀ s, ∃ t, exec (.rdw .p .i1) s = .next t ∧ SameBlock s t ∧ AnswersOk 0xfffffffffffffffe s t) ∧
  (∀ s, ∃ t, exec (.rdw .p .i2) s = .next t ∧ SameBlock s t ∧ AnswersOk 0xffffffffffffffff s t) ∧
  ∀ s, ∃ t, exec (.rdw .p .i3) s = .next t ∧ SameBlock s t ∧ AnswersOk 0xffffffffffffffff s t

/-- R174: WRX writes one half of `X` with `D` and keeps the other half, `LEN` and everything else; a reserved `lsel` raises
EC_LSEL. -/
def Obligations.WrxWritesOneHalf : Prop :=
  (∀ h d, decode (Fields.mk 0x03 0 0 0 h.sel 0).word d = .ok (.wrx h d)) ∧
  (∀ w d, (fieldsOf w).opcode = 0x03 → 1 < (fieldsOf w).lsel.toNat → decode w d = .error .lsel) ∧
  (∀ d s, ∃ t, exec (.wrx .lo d) s = .next t ∧ t.x.toNat = s.x.toNat / 2 ^ 64 * 2 ^ 64 + d.toNat ∧ t.len = s.len ∧
    KeepsWide s t ∧ t.pos = s.pos ∧ KeepsStatus s t ∧ AnswersOk 0 s t) ∧
  ∀ d s, ∃ t, exec (.wrx .hi d) s = .next t ∧ t.x.toNat = d.toNat * 2 ^ 64 + s.x.toNat % 2 ^ 64 ∧ t.len = s.len ∧
    KeepsWide s t ∧ t.pos = s.pos ∧ KeepsStatus s t ∧ AnswersOk 0 s t

/-- R175: RDX answers one half of `X` and changes nothing; a reserved `lsel` raises EC_LSEL. -/
def Obligations.RdxReadsOneHalf : Prop :=
  (∀ h d, decode (Fields.mk 0x04 0 0 0 h.sel 0).word d = .ok (.rdx h)) ∧
  (∀ w d, (fieldsOf w).opcode = 0x04 → 1 < (fieldsOf w).lsel.toNat → decode w d = .error .lsel) ∧
  (∀ s, ∃ t q, exec (.rdx .lo) s = .next t ∧ SameBlock s t ∧ AnswersOk q s t ∧ q.toNat = s.x.toNat % 2 ^ 64) ∧
  ∀ s, ∃ t q, exec (.rdx .hi) s = .next t ∧ SameBlock s t ∧ AnswersOk q s t ∧ q.toNat = s.x.toNat / 2 ^ 64

/-- R176 and R36: RDS answers STATUS (CMP in bits 1:0, ERR in bit 2, ECODE in bits 7:4, all other bits 0), POS, or a half of
LEN, and changes nothing; a reserved index raises EC_LSEL. -/
def Obligations.RdsReadsStatusAndCounters : Prop :=
  (∀ i d, decode (Fields.mk 0x05 0 0 0 i.sel 0).word d = .ok (.rds i)) ∧
  (∀ w d, (fieldsOf w).opcode = 0x05 → 3 < (fieldsOf w).lsel.toNat → decode w d = .error .lsel) ∧
  (∀ s, ∃ t q, exec (.rds .status) s = .next t ∧ SameBlock s t ∧ AnswersOk q s t ∧
    q.toNat = s.cmp.toNat + 4 * s.err.toNat + 16 * s.ecode.toNat) ∧
  (∀ s, ∃ t, exec (.rds .pos) s = .next t ∧ SameBlock s t ∧ AnswersOk s.pos s t) ∧
  (∀ s, ∃ t q, exec (.rds .lenLo) s = .next t ∧ SameBlock s t ∧ AnswersOk q s t ∧ q.toNat = s.len.toNat % 2 ^ 64) ∧
  ∀ s, ∃ t q, exec (.rds .lenHi) s = .next t ∧ SameBlock s t ∧ AnswersOk q s t ∧ q.toNat = s.len.toNat / 2 ^ 64

/-! ### Wide integers (40_wide256.md) -/

/-- R91 and R92: ADD256 leaves the sum modulo 2^256 in the destination and keeps everything else. -/
def Obligations.Add256AddsModulo : Prop :=
  (∀ rd ra d, decode (Fields.mk 0x10 rd.sel ra.sel 0 0 0).word d = .ok (.add256 rd ra)) ∧
  ∀ rd ra s, ∃ t, exec (.add256 rd ra) s = .next t ∧
    (t.wide rd).val = ((s.wide rd).val + (s.readSrc ra).val) % 2 ^ 256 ∧
    KeepsWideBut rd s t ∧ KeepsMixer128 s t ∧ t.pos = s.pos ∧ KeepsStatus s t ∧ AnswersOk 0 s t

/-- R93 and R94: SUB256 leaves the difference modulo 2^256, wrapping without any signal, and keeps everything else. -/
def Obligations.Sub256SubtractsModulo : Prop :=
  (∀ rd ra d, decode (Fields.mk 0x11 rd.sel ra.sel 0 0 0).word d = .ok (.sub256 rd ra)) ∧
  ∀ rd ra s, ∃ t, exec (.sub256 rd ra) s = .next t ∧
    (((t.wide rd).val : Int) = (((s.wide rd).val : Int) - ((s.readSrc ra).val : Int)) % 2 ^ 256) ∧
    KeepsWideBut rd s t ∧ KeepsMixer128 s t ∧ t.pos = s.pos ∧ KeepsStatus s t ∧ AnswersOk 0 s t

/-- R95 and R97 with R12: CMP256 writes STATUS.CMP with 0b11, 0b00 or 0b01 as the first value is below, equal to or above the
second, answers it sign-extended, and writes nothing else. -/
def Obligations.Cmp256ComparesValues : Prop :=
  (∀ ra rb d, decode (Fields.mk 0x12 0 ra.sel rb.sel 0 0).word d = .ok (.cmp256 ra rb)) ∧
  ∀ ra rb s, ∃ t q, exec (.cmp256 ra rb) s = .next t ∧
    ((s.readSrc ra).val < (s.readSrc rb).val → t.cmp = 0b11 ∧ q = 0xffffffffffffffff) ∧
    ((s.readSrc ra).val = (s.readSrc rb).val → t.cmp = 0b00 ∧ q = 0) ∧
    ((s.readSrc rb).val < (s.readSrc ra).val → t.cmp = 0b01 ∧ q = 1) ∧
    KeepsWide s t ∧ KeepsMixer128 s t ∧ t.pos = s.pos ∧ t.err = s.err ∧ t.ecode = s.ecode ∧ AnswersOk q s t

/-- R98: RED256 leaves the true remainder modulo `P` in the register and keeps everything else, STATUS.CMP too. The number is
the literal of R9. -/
def Obligations.Red256LeavesRemainder : Prop :=
  (∀ rd d, decode (Fields.mk 0x13 rd.sel 0 0 0 0).word d = .ok (.red256 rd)) ∧
  (∀ w d, (fieldsOf w).opcode = 0x13 → 3 < (fieldsOf w).rd.toNat → decode w d = .error .regsel) ∧
  ∀ rd s, ∃ t, exec (.red256 rd) s = .next t ∧
    (t.wide rd).val = (s.wide rd).val % 0xfffffffffffffffffffffffffffffffffffffffffffffffefffffc2fffffffff ∧
    (t.wide rd).val < 0xfffffffffffffffffffffffffffffffffffffffffffffffefffffc2fffffffff ∧
    KeepsWideBut rd s t ∧ KeepsMixer128 s t ∧ t.pos = s.pos ∧ KeepsStatus s t ∧ AnswersOk 0 s t

/-- R96: the loop of `reduce_mod` ends, gives the true remainder, and runs at most once. The first clause is about any modulus
above 0 and any bound on the passes that is large enough (90_conflicts.md C5: the loop form gives the right result for another
`P` too). -/
def Obligations.ReductionLoopIsRemainder : Prop :=
  (∀ p x n, 0 < p.val → x.val / p.val ≤ n → (reduceLoop p n x).val = x.val % p.val) ∧
  (∀ x, (reduceMod Config.params x).val = x.val % Config.P.val) ∧
  ∀ x, reduceMod Config.params x = if x.val < Config.P.val then x else sub256 x Config.P

/-- R9: the literal of `P` and the facts the rule derives from it. -/
def Obligations.ModulusFacts : Prop :=
  Config.P.val = 0xfffffffffffffffffffffffffffffffffffffffffffffffefffffc2fffffffff ∧
  Config.P.l3 = 0xffffffffffffffff ∧ Config.P.l2 = 0xffffffffffffffff ∧ Config.P.l1 = 0xfffffffffffffffe ∧
  Config.P.l0 = 0xfffffc2fffffffff ∧ Config.P.val.testBit 255 = true ∧
  2 ^ 256 - Config.P.val = 0x1000003d000000001 ∧ 2 ^ 256 - Config.P.val = 2 ^ 64 + 0x3d000000001 ∧
  2 ^ 256 ≤ 2 * Config.P.val ∧ Config.P.val % 2 = 1 ∧ Config.P.val % 239 = 0 ∧ ¬ Nat.Prime Config.P.val

/-- R99 and R100: MULS256 leaves the product of the source with the 64-bit `D`, modulo 2^256; the old value of the destination
is not used; everything else is kept. -/
def Obligations.Muls256MultipliesByScalar : Prop :=
  (∀ rd ra d, decode (Fields.mk 0x14 rd.sel ra.sel 0 0 0).word d = .ok (.muls256 rd ra d)) ∧
  ∀ rd ra d s, ∃ t, exec (.muls256 rd ra d) s = .next t ∧
    (t.wide rd).val = ((s.readSrc ra).val * d.toNat) % 2 ^ 256 ∧
    KeepsWideBut rd s t ∧ KeepsMixer128 s t ∧ t.pos = s.pos ∧ KeepsStatus s t ∧ AnswersOk 0 s t

/-- R101 and R102: MULW256 leaves the product modulo 2^256, whatever registers its fields name; everything else is kept. -/
def Obligations.Mulw256MultipliesModulo : Prop :=
  (∀ rd ra rb d, decode (Fields.mk 0x15 rd.sel ra.sel rb.sel 0 0).word d = .ok (.mulw256 rd ra rb)) ∧
  ∀ rd ra rb s, ∃ t, exec (.mulw256 rd ra rb) s = .next t ∧
    (t.wide rd).val = ((s.readSrc ra).val * (s.readSrc rb).val) % 2 ^ 256 ∧
    KeepsWideBut rd s t ∧ KeepsMixer128 s t ∧ t.pos = s.pos ∧ KeepsStatus s t ∧ AnswersOk 0 s t

/-- R103 and R104: XOR256 leaves the exclusive or, limb by limb and so of the two numbers; everything else is kept. -/
def Obligations.Xor256XorsLimbs : Prop :=
  (∀ rd ra d, decode (Fields.mk 0x16 rd.sel ra.sel 0 0 0).word d = .ok (.xor256 rd ra)) ∧
  ∀ rd ra s, ∃ t, exec (.xor256 rd ra) s = .next t ∧
    (∀ i, (t.wide rd).limb i = (s.wide rd).limb i ^^^ (s.readSrc ra).limb i) ∧
    (t.wide rd).val = (s.wide rd).val ^^^ (s.readSrc ra).val ∧
    KeepsWideBut rd s t ∧ KeepsMixer128 s t ∧ t.pos = s.pos ∧ KeepsStatus s t ∧ AnswersOk 0 s t

/-- R105: MULW256 then RED256 computes the product cut to 256 bits and then reduced, and so does MULS256 then RED256; for
`a = b = P` the first is the nonzero value of the rule although the true product modulo `P` is 0. -/
def Obligations.ModmulCutsBeforeReducing : Prop :=
  (∀ d a b s, ∃ t, execAll (modmul256 d a b) s = .next t ∧
    (t.wide d).val = (((s.readSrc a).val * (s.readSrc b).val) % 2 ^ 256) % Config.P.val) ∧
  (∀ d a c s, ∃ t, execAll [.muls256 d a c, .red256 d] s = .next t ∧
    (t.wide d).val = (((s.readSrc a).val * c.toNat) % 2 ^ 256) % Config.P.val) ∧
  ∀ d s, (Config.P.val * Config.P.val) % Config.P.val = 0 ∧
    ∃ t, execAll (modmul256 d .p .p) s = .next t ∧
      t.wide d = ⟨0x000007a000000001, 0x000007a0000e8902, 0x0000000000000001, 0⟩

/-! ### The 128-bit mixer (41_mixer128.md) -/

/-- R121: INIT128 loads `X_INIT` and clears LEN, and keeps everything else. -/
def Obligations.Init128StartsFold : Prop :=
  (∀ d, decode 0x20000000 d = .ok .init128) ∧
  ∀ s, ∃ t, exec .init128 s = .next t ∧ t.x = Config.xInit ∧ t.len = 0 ∧
    KeepsWide s t ∧ t.pos = s.pos ∧ KeepsStatus s t ∧ AnswersOk 0 s t

/-- R122 and R123: FOLDB leaves `X * 257 + byte` modulo 2^128, the byte unsigned, counts in LEN modulo 2^128, and keeps
everything else; every byte is legal. -/
def Obligations.FoldbFoldsAndCounts : Prop :=
  (∀ (b : Byte) d, decode (Fields.mk 0x21 0 0 0 0 b).word d = .ok (.foldb b)) ∧
  ∀ b s, ∃ t, exec (.foldb b) s = .next t ∧
    t.x.toNat = (s.x.toNat * 257 + b.toNat) % 2 ^ 128 ∧ t.len.toNat = (s.len.toNat + 1) % 2 ^ 128 ∧
    KeepsWide s t ∧ t.pos = s.pos ∧ KeepsStatus s t ∧ AnswersOk 0 s t

/-- R124 and R125: LENBIND XORs LEN and LEN shifted by 64 into `X` and keeps LEN and everything else; for LEN below 2^64 the
mask is LEN in both halves, for a larger LEN the high half receives both halves of LEN; LEN = 0 changes nothing, and twice in a
row restores `X`. -/
def Obligations.LenbindBindsLength : Prop :=
  (∀ d, decode 0x22000000 d = .ok .lenbind) ∧
  (∀ s, ∃ t, exec .lenbind s = .next t ∧
    t.x.toNat = (s.x.toNat ^^^ ((s.len.toNat * 2 ^ 64) % 2 ^ 128)) ^^^ s.len.toNat ∧ t.len = s.len ∧
    (s.len.toNat < 2 ^ 64 → t.x.toNat = s.x.toNat ^^^ (s.len.toNat * 2 ^ 64 + s.len.toNat)) ∧
    t.x.toNat / 2 ^ 64 = (s.x.toNat / 2 ^ 64) ^^^ ((s.len.toNat % 2 ^ 64) ^^^ (s.len.toNat / 2 ^ 64)) ∧
    KeepsWide s t ∧ t.pos = s.pos ∧ KeepsStatus s t ∧ AnswersOk 0 s t) ∧
  (∀ x, lenbind x 0 = x) ∧ ∀ x n, lenbind (lenbind x n) n = x

/-- R126 and R127: for a legal amount ROTL128 moves bit `i` of `X` to bit `(i + r) mod 128` and keeps everything else; an amount
of 0 or at least 128 is `IllegalCommand(EC_IMM)` at the decoder, and the command itself takes it with `X` unchanged; rotating by
`r` and then by `128 - r` gives the value back, for all `r` in 1..127. -/
def Obligations.Rotl128RotatesLeft : Prop :=
  (∀ (r : Byte) d, 1 ≤ r.toNat → r.toNat ≤ 127 → decode (Fields.mk 0x23 0 0 0 0 r).word d = .ok (.rotl128 r)) ∧
  (∀ w d, (fieldsOf w).opcode = 0x23 → ((fieldsOf w).imm8.toNat = 0 ∨ 128 ≤ (fieldsOf w).imm8.toNat) →
    decode w d = .error .imm) ∧
  (∀ (r : Byte) s, 1 ≤ r.toNat → r.toNat ≤ 127 → ∃ t, exec (.rotl128 r) s = .next t ∧
    (∀ i, i < 128 → t.x.getLsbD ((i + r.toNat) % 128) = s.x.getLsbD i) ∧
    t.x.toNat = ((s.x.toNat * 2 ^ r.toNat) % 2 ^ 128) ||| (s.x.toNat / 2 ^ (128 - r.toNat)) ∧
    t.len = s.len ∧ KeepsWide s t ∧ t.pos = s.pos ∧ KeepsStatus s t ∧ AnswersOk 0 s t) ∧
  (∀ (r : Byte) s, (r.toNat = 0 ∨ 128 ≤ r.toNat) → ∃ t, exec (.rotl128 r) s = .next t ∧ TakesIllegal .imm s t) ∧
  ∀ (x : Word128) (r : Nat), 1 ≤ r → r ≤ 127 → rotl128 (rotl128 x r) (128 - r) = x

/-- R128: MULK128 leaves `X * Kk` modulo 2^128 for the constant named, and keeps everything else; index 0 and 4..15 raise
EC_LSEL. -/
def Obligations.Mulk128MultipliesByConstant : Prop :=
  (∀ k d, decode (Fields.mk 0x24 0 0 0 k.sel 0).word d = .ok (.mulk128 k)) ∧
  (∀ w d, (fieldsOf w).opcode = 0x24 → ((fieldsOf w).lsel.toNat = 0 ∨ 3 < (fieldsOf w).lsel.toNat) →
    decode w d = .error .lsel) ∧
  ∀ k s, ∃ t, exec (.mulk128 k) s = .next t ∧
    t.x.toNat = (s.x.toNat * (match k with
      | .k1 => Config.K1
      | .k2 => Config.K2
      | .k3 => Config.K3).toNat) % 2 ^ 128 ∧
    t.len = s.len ∧ KeepsWide s t ∧ t.pos = s.pos ∧ KeepsStatus s t ∧ AnswersOk 0 s t

/-- R130 and R131: HLMIX128 makes the old low half the new high half and the XOR of the halves the new low half, keeps
everything else, and loses nothing. -/
def Obligations.Hlmix128MixesHalves : Prop :=
  (∀ d, decode 0x25000000 d = .ok .hlmix128) ∧
  (∀ s, ∃ t, exec .hlmix128 s = .next t ∧
    t.x.toNat = (s.x.toNat % 2 ^ 64) * 2 ^ 64 + ((s.x.toNat / 2 ^ 64) ^^^ (s.x.toNat % 2 ^ 64)) ∧
    t.len = s.len ∧ KeepsWide s t ∧ t.pos = s.pos ∧ KeepsStatus s t ∧ AnswersOk 0 s t) ∧
  Function.Bijective hlmix

/-- R132 and R133: for a legal amount XSHR128 leaves `X xor (X >> s)`, the shift logical, and keeps everything else; amount 0
gives 0, and for an amount of at least 64 the high half is unchanged; an amount of at least 128 is `IllegalCommand(EC_IMM)` at
the decoder, and the command itself takes it with `X` unchanged. -/
def Obligations.Xshr128XorsShifted : Prop :=
  (∀ (r : Byte) d, r.toNat ≤ 127 → decode (Fields.mk 0x26 0 0 0 0 r).word d = .ok (.xshr128 r)) ∧
  (∀ w d, (fieldsOf w).opcode = 0x26 → 128 ≤ (fieldsOf w).imm8.toNat → decode w d = .error .imm) ∧
  (∀ (r : Byte) s, r.toNat ≤ 127 → ∃ t, exec (.xshr128 r) s = .next t ∧
    t.x.toNat = s.x.toNat ^^^ (s.x.toNat / 2 ^ r.toNat) ∧ (r = 0 → t.x = 0) ∧
    (64 ≤ r.toNat → t.x.toNat / 2 ^ 64 = s.x.toNat / 2 ^ 64) ∧
    t.len = s.len ∧ KeepsWide s t ∧ t.pos = s.pos ∧ KeepsStatus s t ∧ AnswersOk 0 s t) ∧
  ∀ (r : Byte) s, 128 ≤ r.toNat → ∃ t, exec (.xshr128 r) s = .next t ∧ TakesIllegal .imm s t

/-- R135: MIX128 is equal in effect to the ten commands of the rule: every register agrees after the one and after the ten,
LEN and everything but `X` as before; the one answers `(OK, 0)`. -/
def Obligations.Mix128EqualsTenCommands : Prop :=
  (∀ d, decode 0x27000000 d = .ok .mix128) ∧
  ∀ s, ∃ t u, exec .mix128 s = .next t ∧ execAll mix128Primitives s = .next u ∧ SameBlock t u ∧
    t.x = mix128 Config.params s.x ∧ t.len = s.len ∧ KeepsWide s t ∧ t.pos = s.pos ∧ KeepsStatus s t ∧ AnswersOk 0 s t

/-- R136: from any state, INIT128, one FOLDB per byte and LENBIND leave `fold_string(s)` in `X`; with `X_INIT` = 0 and at most
15 bytes the value before the length binding is the base-257 numeral of the bytes. -/
def Obligations.FoldStringIsFoldCommands : Prop :=
  (∀ (bs : List Byte) s, ∃ t, execAll (.init128 :: bs.map .foldb ++ [.lenbind]) s = .next t ∧
    t.x = foldString Config.params bs ∧ t.len.toNat = bs.length % 2 ^ 128) ∧
  ∀ bs : List Byte, bs.length ≤ 15 →
    (bs.foldl foldStep 0).toNat = Nat.ofDigits 257 (bs.reverse.map BitVec.toNat)

/-- R137: the machine, given the words of `HASH128 s` in any state, with or without earlier faults, takes them one a step,
answers each `(OK, 0)`, and leaves `hash128(s)` in `X`, the byte count in LEN, and every other register as it was; RDX then
reads the two halves of the digest; the empty string's digest is `mix128(X_INIT)`, 0 where `X_INIT` is 0. -/
def Obligations.Hash128LeavesDigest : Prop :=
  (∀ (bs : List Byte) (rest : List HostAction) (s : State), s.pending = issue (hash128Commands bs) ++ rest →
    ∃ t, core.run (bs.length + 3) s = .next t ∧ t.x = hash128 Config.params bs ∧
      t.len.toNat = bs.length % 2 ^ 128 ∧ KeepsWide s t ∧ t.pos = s.pos ∧ KeepsStatus s t ∧ t.pending = rest ∧
      t.responses = s.responses ++ List.replicate (bs.length + 3) ⟨.ok, 0⟩ ∧
      ∃ u v, exec (.rdx .hi) t = .next u ∧ AnswersOk (hi64 (hash128 Config.params bs)) t u ∧
        exec (.rdx .lo) u = .next v ∧ AnswersOk (lo64 (hash128 Config.params bs)) u v) ∧
  ∀ c : Params, hash128 c [] = mix128 c c.xInit ∧ (c.xInit = 0 → hash128 c [] = 0)

/-! ### The 256-bit mixer (42_mixer256.md) -/

/-- R151: INIT256 clears `W0` and POS and keeps `W1` and everything else. -/
def Obligations.Init256StartsSum : Prop :=
  (∀ d, decode 0x30000000 d = .ok .init256) ∧
  ∀ s, ∃ t, exec .init256 s = .next t ∧ (t.wide .w0).val = 0 ∧ t.pos = 0 ∧
    KeepsWideBut .w0 s t ∧ KeepsMixer128 s t ∧ KeepsStatus s t ∧ AnswersOk 0 s t

/-- R152 and R153: ABSORB256 leaves the six steps' sum in `W0`, their term in `W1` and the next position in POS, all as numbers
of the spec's equations, and keeps `W2`, `W3` and everything else; the sum is below `P`. -/
def Obligations.Absorb256AddsTerm : Prop :=
  (∀ (b : Byte) d, decode (Fields.mk 0x31 0 0 0 0 b).word d = .ok (.absorb256 b)) ∧
  ∀ (b : Byte) s, ∃ t, exec (.absorb256 b) s = .next t ∧
    (t.wide .w1).val =
      (((Config.K.val * ((b.toNat * (s.pos.toNat + 1)) % 2 ^ 64)) % 2 ^ 256) % Config.P.val) ^^^ Config.R.val ∧
    (t.wide .w0).val = (((s.wide .w0).val + (t.wide .w1).val) % 2 ^ 256) % Config.P.val ∧
    (t.wide .w0).val < Config.P.val ∧ t.pos.toNat = (s.pos.toNat + 1) % 2 ^ 64 ∧
    t.wide .w2 = s.wide .w2 ∧ t.wide .w3 = s.wide .w3 ∧ KeepsMixer128 s t ∧ KeepsStatus s t ∧ AnswersOk 0 s t

/-- R154: ABSORB256 is equal in effect on `W0` and `W1` to the five commands of the rule with the scalar the host computes, and
those do not advance POS. -/
def Obligations.Absorb256EqualsPrimitives : Prop :=
  ∀ (b : Byte) s, ∃ t u, exec (.absorb256 b) s = .next t ∧
    execAll (absorb256Primitives (BitVec.ofNat 64 (b.toNat * (s.pos.toNat + 1)))) s = .next u ∧
    (∀ r, t.wide r = u.wide r) ∧ u.pos = s.pos ∧ t.pos = s.pos + 1

/-- R156: the term before its XOR is below `P`; the new sum is the sum cut to 256 bits and then reduced; where the carry was
dropped it differs from the true sum by `2^256 - P` modulo `P`, and such a case exists. -/
def Obligations.DroppedCarryIsLost : Prop :=
  (∀ (c : Params) sum pos b, c.P = Config.P →
    (reduceMod c (muls256 c.K (absorbScalar pos b))).val < Config.P.val ∧
    (absorb256 c sum pos b).sum.val = ((sum.val + (absorb256 c sum pos b).term.val) % 2 ^ 256) % Config.P.val ∧
    (2 ^ 256 ≤ sum.val + (absorb256 c sum pos b).term.val →
      ((absorb256 c sum pos b).sum.val + 0x1000003d000000001) % Config.P.val =
        (sum.val + (absorb256 c sum pos b).term.val) % Config.P.val)) ∧
  ∃ (c : Params) (sum : Wide) (pos : BitVec 64) (b : Byte), c.P = Config.P ∧ sum.val < Config.P.val ∧
    (absorb256 c sum pos b).sum.val ≠ (sum.val + (absorb256 c sum pos b).term.val) % Config.P.val

/-- R155: FINAL256, the word 0x13000000, changes no register after INIT256 or ABSORB256; in any state it leaves `W0` below `P`,
and it does change `W0` where the host has put a value not below `P` there. -/
def Obligations.Final256IsRedundant : Prop :=
  issue final256 = [.command 0x13000000 0] ∧
  (∀ s t, exec .init256 s = .next t → ∃ u, execAll final256 t = .next u ∧ SameBlock t u) ∧
  (∀ b s t, exec (.absorb256 b) s = .next t → ∃ u, execAll final256 t = .next u ∧ SameBlock t u) ∧
  ∀ s, ∃ u, execAll final256 s = .next u ∧ (u.wide .w0).val < Config.P.val ∧
    (Config.P.val ≤ (s.wide .w0).val → u.wide .w0 ≠ s.wide .w0)

/-- R157: the machine, given the words of `HASH256 s` in any state, with or without earlier faults, takes them one a step,
answers each `(OK, 0)`, and leaves `hash256(s)` in `W0`, the byte position in POS, and `W2`, `W3`, `X`, LEN and STATUS as they
were; `W1` is as it was for the empty string; RDW then reads each limb of the digest. -/
def Obligations.Hash256LeavesDigest : Prop :=
  ∀ (bs : List Byte) (rest : List HostAction) (s : State), s.pending = issue (hash256Commands bs) ++ rest →
    ∃ t, core.run (bs.length + 2) s = .next t ∧ t.wide .w0 = hash256 Config.params bs ∧
      t.pos.toNat = bs.length % 2 ^ 64 ∧ t.wide .w2 = s.wide .w2 ∧ t.wide .w3 = s.wide .w3 ∧
      (bs = [] → t.wide .w1 = s.wide .w1) ∧ KeepsMixer128 s t ∧ KeepsStatus s t ∧ t.pending = rest ∧
      t.responses = s.responses ++ List.replicate (bs.length + 2) ⟨.ok, 0⟩ ∧
      ∀ l, ∃ u, exec (.rdw (.reg .w0) l) t = .next u ∧ SameBlock t u ∧
        AnswersOk ((hash256 Config.params bs).limb l) t u

/-- R158: every digest is below `P`, and the empty string's is 0 whatever `K` and `R`, printed as 64 zero digits. -/
def Obligations.DigestBelowModulus : Prop :=
  (∀ (c : Params) (bs : List Byte), c.P = Config.P → (hash256 c bs).val < Config.P.val) ∧
  ∀ c : Params, c.P = Config.P → (hash256 c []).val = 0 ∧ hex256 (hash256 c []) = List.replicate 64 '0'

/-! ### Encoding (30_encoding.md) -/

/-- R67, R71: the decoder reads back every command the encoder writes, with every operand at every legal value. -/
def Obligations.DecodeReadsEncodedCommand : Prop :=
  ∀ i : Instr, i.wellFormed = true → decode (encode i).1 (encode i).2 = .ok i

/-- R67: no bit of a word is ignored: a word that decodes to a command is that command's own word, the command is well formed,
and its data-in is the one presented where it uses one. -/
def Obligations.DecodedWordIsEncoding : Prop :=
  ∀ w d i, decode w d = .ok i → i.wellFormed = true ∧ (encode i).1 = w ∧ (i.usesData = true → (encode i).2 = d)

/-- R202 and R204: the decoder raises exactly the cause that the checks of R204 report in their order, read off the table of
R71. -/
def Obligations.ReportedCauseFollowsPriority : Prop :=
  ∀ w d c, decode w d = .error c ↔ reportedCause w = some c

/-- R71: a word is a legal command exactly where a row of the table has it: mask and match agree and every used field is in its
range. -/
def Obligations.LegalWordsAreTheTable : Prop :=
  ∀ w d, (∃ i, decode w d = .ok i) ↔ ∃ r ∈ encodingTable, r.legal w = true

/-- R73, first part, and R204 (1): a reserved opcode raises EC_OPCODE whatever the other fields hold. -/
def Obligations.ReservedOpcodeIsIllegal : Prop :=
  ∀ w d, (0x06 ≤ (fieldsOf w).opcode.toNat ∧ (fieldsOf w).opcode.toNat ≤ 0x0f ∨
      0x17 ≤ (fieldsOf w).opcode.toNat ∧ (fieldsOf w).opcode.toNat ≤ 0x1f ∨
      0x28 ≤ (fieldsOf w).opcode.toNat ∧ (fieldsOf w).opcode.toNat ≤ 0x2f ∨ 0x32 ≤ (fieldsOf w).opcode.toNat) ↔
    decode w d = .error .opcode

/-- R68: the data-in is used by WRW, WRX and MULS256 alone, whole, and never causes a fault. -/
def Obligations.DataInIsNeverChecked : Prop :=
  (∀ w d d' c, decode w d = .error c → decode w d' = .error c) ∧
  (∀ w d d' i, decode w d = .ok i → i.usesData = false → decode w d' = .ok i) ∧
  ∀ w d i, decode w d = .ok i → i.usesData = true → i.dataIn = d ∧ (fieldsOf w).opcode.toNat ∈ [0x01, 0x03, 0x14]

/-- R66: the fields of a word lie where the rule puts them: the word is their weighted sum. -/
def Obligations.WordIsWeightedSumOfFields : Prop :=
  ∀ w : BitVec 32, w.toNat = (fieldsOf w).opcode.toNat * 2 ^ 24 + (fieldsOf w).rd.toNat * 2 ^ 20 +
    (fieldsOf w).ra.toNat * 2 ^ 16 + (fieldsOf w).rb.toNat * 2 ^ 12 + (fieldsOf w).lsel.toNat * 2 ^ 8 +
    (fieldsOf w).imm8.toNat

/-- The 23 example words of R75 and the five of R204 decode as the spec says. -/
def Obligations.ExampleWordsDecode : Prop :=
  decode 0x00000000 0 = .ok .nop ∧ decode 0x04000000 0 = .ok (.rdx .lo) ∧
  decode 0x10010000 0 = .ok (.add256 .w0 (.reg .w1)) ∧ decode 0x13100000 0 = .ok (.red256 .w1) ∧
  decode 0x20000000 0 = .ok .init128 ∧ decode 0x22000000 0 = .ok .lenbind ∧ decode 0x25000000 0 = .ok .hlmix128 ∧
  decode 0x27000000 0 = .ok .mix128 ∧ decode 0x30000000 0 = .ok .init256 ∧
  decode 0x01200300 0x0123 = .ok (.wrw .w2 .i3 0x0123) ∧ decode 0x02060000 0 = .ok (.rdw .p .i0) ∧
  decode 0x03000100 1 = .ok (.wrx .hi 1) ∧ decode 0x05000100 0 = .ok (.rds .pos) ∧
  decode 0x11360000 0 = .ok (.sub256 .w3 .p) ∧ decode 0x12006000 0 = .ok (.cmp256 (.reg .w0) .p) ∧
  decode 0x14140000 0x61 = .ok (.muls256 .w1 .k 0x61) ∧ decode 0x15201000 0 = .ok (.mulw256 .w2 (.reg .w0) (.reg .w1)) ∧
  decode 0x16150000 0 = .ok (.xor256 .w1 .r) ∧ decode 0x21000061 0 = .ok (.foldb 0x61) ∧
  decode 0x2300000d 0 = .ok (.rotl128 13) ∧ decode 0x24000200 0 = .ok (.mulk128 .k2) ∧
  decode 0x26000043 0 = .ok (.xshr128 67) ∧ decode 0x31000061 0 = .ok (.absorb256 0x61) ∧
  decode 0xff123456 0 = .error .opcode ∧ decode 0x10470000 0 = .error .regsel ∧ decode 0x01400400 0 = .error .regsel ∧
  decode 0x23000100 0 = .error .imm ∧ decode 0x10010001 0 = .error .mbz

/-! ### The exception, the step and reset -/

/-- R203: when the next word is illegal, the step takes `IllegalCommand` with the code the decoder reports, in full, and goes
on: the rest of the host's actions stand next. -/
def Obligations.IllegalWordIsTaken : Prop :=
  ∀ s w d rest c, s.pending = .command w d :: rest → decode w d = .error c →
    ∃ t, step s = .next t ∧ TakesIllegal c (s.setPending rest) t

/-- A step runs the decoded command: when the next word decodes to `i`, the step is `exec i` on the state in which the host's
action has been taken, and `i` is well formed. -/
def Obligations.StepRunsDecodedCommand : Prop :=
  ∀ s w d rest i, s.pending = .command w d :: rest → decode w d = .ok i →
    i.wellFormed = true ∧ step s = exec i (s.setPending rest)

/-- R37: a reset leaves STATUS 0 and in every other register whatever value it draws, any value; it returns nothing (R233), so the
responses are as before, and it takes the host's reset and nothing more from the port. The two last are about the model's own
fields (log entries 1, 2 and 4). -/
def Obligations.ResetDrawsRegisters : Prop :=
  ∀ s draw rest, s.pending = .reset draw :: rest → ∃ t, step s = .next t ∧
    t.cmp = 0 ∧ t.err = false ∧ t.ecode = 0 ∧ t.statusWord = 0 ∧
    t.wide .w0 = draw.w0 ∧ t.wide .w1 = draw.w1 ∧ t.wide .w2 = draw.w2 ∧ t.wide .w3 = draw.w3 ∧
    t.x = draw.x ∧ t.len = draw.len ∧ t.pos = draw.pos ∧ t.responses = s.responses ∧ t.pending = rest

/-- Every command in every state has a next state, and so has every other step: no step ends in a fault or a refusal, and each
step takes exactly the host's next action and answers at most once; between commands the block holds its state, so a step with
nothing pending changes nothing. The model's own choices in it: the host port (log entries 1 and 2) and the step with nothing
pending (log entry 8). -/
def Obligations.EveryStepHasNextState : Prop :=
  (∀ s, ∃ t, step s = .next t ∧ t.pending = s.pending.tail ∧
    (t.responses = s.responses ∨ ∃ r, t.responses = s.responses ++ [r])) ∧
  ∀ s, s.pending = [] → step s = .next s

/-- Every step keeps STATUS one the block can show, from every state in which it is one: CMP never 0b10, the cause 0 exactly
while ERR is 0, no cause above 5. -/
def Obligations.StepKeepsStatusLegal : Prop := ∀ s t, StatusLegal s → step s = .next t → StatusLegal t

/-- R37: STATUS after reset is 0, and so one the block can show. -/
def Obligations.ResetStatusIsZero : Prop :=
  StatusLegal State.reset ∧ State.reset.cmp = 0 ∧ State.reset.err = false ∧ State.reset.ecode = 0 ∧
    State.reset.statusWord = 0

/-- R206: ERR and the first cause stay until a reset, whatever commands the host issues; a legal command changes neither. -/
def Obligations.FirstCauseStaysUntilReset : Prop :=
  (∀ s t n, s.err = true → (∀ a ∈ s.pending, a.isReset = false) → core.run n s = .next t →
    t.err = true ∧ t.ecode = s.ecode) ∧
  ∀ i s t, i.wellFormed = true → exec i s = .next t → t.err = s.err ∧ t.ecode = s.ecode

/-- R206: ERR is a record, not a mode: a legal command does to every register the same, and answers the same unless it is RDS of
STATUS, whatever ERR and ECODE hold. -/
def Obligations.ErrIsARecordNotAMode : Prop :=
  ∀ i s e c, i.wellFormed = true → ∃ t u, exec i s = .next t ∧ exec i { s with err := e, ecode := c } = .next u ∧
    SameRegisters t u ∧ (i ≠ .rds .status → t.responses = u.responses)

/-- R34: STATUS.CMP is written by CMP256 alone; no other command's effect on it, RED256 and ABSORB256 included, is anything but
to keep it. -/
def Obligations.CmpIsWrittenByCmp256Alone : Prop :=
  ∀ i s t, i.isCmp256 = false → exec i s = .next t → t.cmp = s.cmp

/-- R30 and R31: LEN is written by INIT128 and FOLDB alone, POS by INIT256 and ABSORB256 alone. -/
def Obligations.CountersAreWrittenByTheirCommands : Prop :=
  ∀ i s t, exec i s = .next t →
    (i ≠ .init128 → (∀ b, i ≠ .foldb b) → t.len = s.len) ∧ (i ≠ .init256 → (∀ b, i ≠ .absorb256 b) → t.pos = s.pos)

/-- R90, R120, R150: what each family leaves alone: the wide family `X`, LEN and POS; the 128-bit mixer the wide registers, POS
and CMP; the 256-bit mixer `X`, LEN, `W2`, `W3` and CMP; and no command writes a wide register that is not its destination. -/
def Obligations.FamiliesLeaveOthersAlone : Prop :=
  ∀ i s t, exec i s = .next t →
    (i.inWide256 = true → KeepsMixer128 s t ∧ t.pos = s.pos) ∧
    (i.inMixer128 = true → KeepsWide s t ∧ t.pos = s.pos ∧ t.cmp = s.cmp) ∧
    (i.inMixer256 = true → KeepsMixer128 s t ∧ t.wide .w2 = s.wide .w2 ∧ t.wide .w3 = s.wide .w3 ∧ t.cmp = s.cmp) ∧
    ∀ r, r ∉ i.wideDests → t.wide r = s.wide r

/-- R185: commands of the two pipelines may be interleaved: a legal command of the 128-bit mixer and one of the 256-bit mixer
leave the same registers and STATUS in either order. -/
def Obligations.PipelinesCommute : Prop :=
  ∀ i j s, i.inMixer128 = true → i.wellFormed = true → j.inMixer256 = true →
    ∃ t u, execAll [i, j] s = .next t ∧ execAll [j, i] s = .next u ∧ SameBlock t u

/-- R229 for the 128-bit pipeline: whatever the state before, and whatever the host issues between the commands of `HASH128 s`
(illegal words, commands of the other pipeline, any command that writes neither `X` nor LEN; no reset), `X` ends as
`hash128(s)`. -/
def Obligations.Digest128IndependentOfHistory : Prop :=
  ∀ (bs : List Byte) (acts rest : List HostAction) (s : State), (∀ a ∈ acts, a.isReset = false) →
    acts.filterMap HostAction.mixer128 = hash128Commands bs → s.pending = acts ++ rest →
    ∃ t, core.run acts.length s = .next t ∧ t.x = hash128 Config.params bs ∧ t.pending = rest

/-- R229 for the 256-bit pipeline: whatever the state before, and whatever the host issues between the commands of `HASH256 s`
(illegal words, commands of the other pipeline, any command that writes neither `W0` nor POS; no reset), `W0` ends as
`hash256(s)`. -/
def Obligations.Digest256IndependentOfHistory : Prop :=
  ∀ (bs : List Byte) (acts rest : List HostAction) (s : State), (∀ a ∈ acts, a.isReset = false) →
    acts.filterMap HostAction.mixer256 = hash256Commands bs → s.pending = acts ++ rest →
    ∃ t, core.run acts.length s = .next t ∧ t.wide .w0 = hash256 Config.params bs ∧ t.pending = rest

/-! ### The host side (30_encoding.md R76, 43_system_and_host.md part 2) -/

/-- R76: LDW leaves `v` in the register and LDX leaves `v` in `X` with LEN unchanged; every other register is kept. -/
def Obligations.LoadPseudosLoad : Prop :=
  (∀ d v s, ∃ t, execAll (ldw d v) s = .next t ∧ t.wide d = v ∧ KeepsWideBut d s t ∧ KeepsMixer128 s t ∧ t.pos = s.pos ∧
    KeepsStatus s t) ∧
  ∀ v s, ∃ t, execAll (ldx v) s = .next t ∧ t.x = v ∧ t.len = s.len ∧ KeepsWide s t ∧ t.pos = s.pos ∧ KeepsStatus s t

/-- R180: the text of a 128-bit digest has 32 characters, and for `j` below 32 the character at place `31 - j` is the digit of
bits `4j+3..4j`. -/
def Obligations.HexText128Digits : Prop :=
  ∀ x : Word128, (hex128 x).length = 32 ∧
    ∀ j, j < 32 → (hex128 x)[31 - j]? = "0123456789abcdef".toList[x.toNat / 2 ^ (4 * j) % 16]?

/-- R181: the text of a 256-bit digest has 64 characters and is the hexadecimal numeral of the value padded to 64 digits. -/
def Obligations.HexText256IsNumeral : Prop :=
  ∀ v : Wide, (hex256 v).length = 64 ∧
    ∀ j, j < 64 → (hex256 v)[63 - j]? = "0123456789abcdef".toList[v.val / 2 ^ (4 * j) % 16]?
end

