-- ==== Sys2Proof/Laws/Arith.lean ====
section
/-! SUPPORT. What one limb of each loop of the 256-bit unit can do, as numbers; the bounds of a wide value; the halves of a
128-bit value. -/

namespace Sys2Proof

/-! ### Halves of a 128-bit value -/

theorem lo64_toNat (x : Word128) : (lo64 x).toNat = x.toNat % 2 ^ 64 := by simp [lo64]

theorem hi64_toNat (x : Word128) : (hi64 x).toNat = x.toNat / 2 ^ 64 := by
  have h := x.isLt
  simp only [hi64, BitVec.extractLsb'_toNat, Nat.shiftRight_eq_div_pow]
  omega

theorem join64_toNat (hi lo : BitVec 64) : (join64 hi lo).toNat = hi.toNat * 2 ^ 64 + lo.toNat := by
  rw [join64, BitVec.toNat_append, ← Nat.shiftLeft_add_eq_or_of_lt lo.isLt, Nat.shiftLeft_eq]

@[simp] theorem lo64_join64 (hi lo : BitVec 64) : lo64 (join64 hi lo) = lo := by
  have h := lo.isLt
  apply BitVec.eq_of_toNat_eq
  rw [lo64_toNat, join64_toNat]
  omega

@[simp] theorem hi64_join64 (hi lo : BitVec 64) : hi64 (join64 hi lo) = hi := by
  have h := lo.isLt
  apply BitVec.eq_of_toNat_eq
  rw [hi64_toNat, join64_toNat]
  omega

@[simp] theorem join64_halves (x : Word128) : join64 (hi64 x) (lo64 x) = x := by
  apply BitVec.eq_of_toNat_eq
  rw [join64_toNat, hi64_toNat, lo64_toNat]
  omega

/-! ### Wide values -/

/-- A wide value is below 2^256 (40_wide256.md R90). -/
theorem Wide.val_lt (v : Wide) : v.val < 2 ^ 256 := by
  have h0 := v.l0.isLt
  have h1 := v.l1.isLt
  have h2 := v.l2.isLt
  have h3 := v.l3.isLt
  unfold Wide.val
  omega

/-- A wide value is determined by its number. -/
theorem Wide.val_injective {a b : Wide} (h : a.val = b.val) : a = b := by
  obtain ⟨a0, a1, a2, a3⟩ := a
  obtain ⟨b0, b1, b2, b3⟩ := b
  have ha0 := a0.isLt
  have ha1 := a1.isLt
  have ha2 := a2.isLt
  have ha3 := a3.isLt
  have hb0 := b0.isLt
  have hb1 := b1.isLt
  have hb2 := b2.isLt
  have hb3 := b3.isLt
  simp only [Wide.val] at h
  simp only [Wide.mk.injEq]
  refine ⟨?_, ?_, ?_, ?_⟩ <;> apply BitVec.eq_of_toNat_eq <;> omega

@[simp] theorem Wide.val_zero : Wide.zero.val = 0 := by decide

@[simp] theorem Wide.setLimb_limb_same (v : Wide) (i : LimbIdx) (d : Limb) : (v.setLimb i d).limb i = d := by
  cases i <;> rfl

theorem Wide.setLimb_limb_other (v : Wide) (i j : LimbIdx) (d : Limb) (h : j ≠ i) :
    (v.setLimb i d).limb j = v.limb j := by
  cases i <;> cases j <;> first | rfl | exact absurd rfl h

/-- One limb of the adder: sum limb and carry make the exact sum (40_wide256.md R91). -/
theorem addLimb_exact (r a : Limb) (c : Nat) :
    (addLimb r a c).1.toNat + 2 ^ 64 * (addLimb r a c).2 = r.toNat + a.toNat + c := by
  simp only [addLimb, BitVec.toNat_ofNat]
  omega

/-- The carry of one limb is at most 1 (40_wide256.md R91). -/
theorem addLimb_carry_le (r a : Limb) (c : Nat) (h : c ≤ 1) : (addLimb r a c).2 ≤ 1 := by
  have hr := r.isLt
  have ha := a.isLt
  simp only [addLimb]
  omega

/-- One limb of the subtracter: difference limb and borrow make the exact difference (40_wide256.md R93). -/
theorem subLimb_exact (r m : Limb) (b : Nat) (h : b ≤ 1) :
    ((subLimb r m b).1.toNat : Int) - 2 ^ 64 * ((subLimb r m b).2 : Int) = r.toNat - m.toNat - b := by
  have hr := r.isLt
  have hm := m.isLt
  simp only [subLimb]
  split <;> simp [BitVec.toNat_ofInt] <;> omega

/-- The borrow of one limb is at most 1 (40_wide256.md R93). -/
theorem subLimb_borrow_le (r m : Limb) (b : Nat) : (subLimb r m b).2 ≤ 1 := by
  simp only [subLimb]
  split <;> simp

/-- One limb of the scalar multiplier: product limb and carry make the exact product (40_wide256.md R99). -/
theorem mulLimb_exact (a b : Limb) (c : Nat) :
    (mulLimb a b c).1.toNat + 2 ^ 64 * (mulLimb a b c).2 = a.toNat * b.toNat + c := by
  simp only [mulLimb, BitVec.toNat_ofNat]
  omega

/-- What one limb pair decides (40_wide256.md R95). -/
theorem cmpLimb_spec (a b : Limb) :
    (cmpLimb a b = .less ∧ a.toNat < b.toNat) ∨ (cmpLimb a b = .equal ∧ a.toNat = b.toNat) ∨
      (cmpLimb a b = .greater ∧ b.toNat < a.toNat) := by
  unfold cmpLimb
  split
  · simp [*]
  · split
    · simp [*]
    · right; left; refine ⟨rfl, ?_⟩; omega

/-- A limb shift multiplies by the power of 2^64 and drops what passes limb 3 (40_wide256.md R101). -/
theorem limbShift_val (v : Wide) (i : LimbIdx) :
    (limbShift v i).val = (v.val * 2 ^ (64 * (match i with
      | .i0 => 0
      | .i1 => 1
      | .i2 => 2
      | .i3 => 3))) % 2 ^ 256 := by
  have h0 := v.l0.isLt
  have h1 := v.l1.isLt
  have h2 := v.l2.isLt
  have h3 := v.l3.isLt
  cases i <;> simp only [limbShift, Wide.val, BitVec.ofNat_eq_ofNat, BitVec.toNat_ofNat] <;> omega

end Sys2Proof
end

