-- ==== Sys2Proof/Laws/Encoding.lean ====
section
/-! SUPPORT. Small lemmas of the encoding: fields and words, select codes, and the checks of the decoder. -/

namespace Sys2Proof

/-- The fields of a word made of fields are those fields. -/
@[simp] theorem fieldsOf_word (f : Fields) : fieldsOf f.word = f := by
  cases f with
  | mk o rd ra rb l im =>
    simp only [fieldsOf, Fields.word, Fields.mk.injEq]
    refine ⟨?_, ?_, ?_, ?_, ?_, ?_⟩ <;> ext i hi <;>
      simp [BitVec.getElem_extractLsb'] <;> grind

/-- A word is made of its fields. -/
@[simp] theorem word_fieldsOf (w : BitVec 32) : (fieldsOf w).word = w := by
  ext i hi
  simp [fieldsOf, Fields.word]
  grind

@[simp] theorem WReg.ofSel_sel (r : WReg) : WReg.ofSel r.sel = some r := by cases r <;> rfl
@[simp] theorem WSrc.ofSel_sel (a : WSrc) : WSrc.ofSel a.sel = some a := by
  cases a with
  | reg r => cases r <;> rfl
  | k => rfl
  | r => rfl
  | p => rfl
@[simp] theorem LimbIdx.ofSel_sel (i : LimbIdx) : LimbIdx.ofSel i.sel = some i := by cases i <;> rfl
@[simp] theorem Half.ofSel_sel (h : Half) : Half.ofSel h.sel = some h := by cases h <;> rfl
@[simp] theorem StatusIdx.ofSel_sel (i : StatusIdx) : StatusIdx.ofSel i.sel = some i := by cases i <;> rfl
@[simp] theorem KIdx.ofSel_sel (k : KIdx) : KIdx.ofSel k.sel = some k := by cases k <;> rfl

/-- A destination select is read only from its own code, and refused above 3 (10_state.md R22). -/
theorem WReg.ofSel_eq_some (s : BitVec 4) (r : WReg) : WReg.ofSel s = some r ↔ s = r.sel := by
  cases r <;> revert s <;> decide
theorem WSrc.ofSel_eq_some (s : BitVec 4) (a : WSrc) : WSrc.ofSel s = some a ↔ s = a.sel := by
  cases a with
  | reg r => cases r <;> revert s <;> decide
  | k => revert s; decide
  | r => revert s; decide
  | p => revert s; decide
theorem LimbIdx.ofSel_eq_some (s : BitVec 4) (i : LimbIdx) : LimbIdx.ofSel s = some i ↔ s = i.sel := by
  cases i <;> revert s <;> decide
theorem Half.ofSel_eq_some (s : BitVec 4) (h : Half) : Half.ofSel s = some h ↔ s = h.sel := by
  cases h <;> revert s <;> decide
theorem StatusIdx.ofSel_eq_some (s : BitVec 4) (i : StatusIdx) : StatusIdx.ofSel s = some i ↔ s = i.sel := by
  cases i <;> revert s <;> decide
theorem KIdx.ofSel_eq_some (s : BitVec 4) (k : KIdx) : KIdx.ofSel s = some k ↔ s = k.sel := by
  cases k <;> revert s <;> decide

/-- A select code is refused above its range (30_encoding.md R73). -/
theorem WReg.ofSel_eq_none : ∀ s : BitVec 4, WReg.ofSel s = none ↔ 3 < s.toNat := by decide
theorem WSrc.ofSel_eq_none : ∀ s : BitVec 4, WSrc.ofSel s = none ↔ 6 < s.toNat := by decide
theorem LimbIdx.ofSel_eq_none : ∀ s : BitVec 4, LimbIdx.ofSel s = none ↔ 3 < s.toNat := by decide
theorem Half.ofSel_eq_none : ∀ s : BitVec 4, Half.ofSel s = none ↔ 1 < s.toNat := by decide
theorem StatusIdx.ofSel_eq_none : ∀ s : BitVec 4, StatusIdx.ofSel s = none ↔ 3 < s.toNat := by decide
theorem KIdx.ofSel_eq_none : ∀ s : BitVec 4, KIdx.ofSel s = none ↔ s.toNat = 0 ∨ 3 < s.toNat := by decide

/-- What the checks of the decoder answer. -/
theorem need_eq_ok {α : Type} (c : ECode) (o : Option α) (a : α) : need c o = .ok a ↔ o = some a := by
  cases o <;> simp [need]
theorem need_eq_error {α : Type} (c e : ECode) (o : Option α) : need c o = .error e ↔ o = none ∧ e = c := by
  cases o <;> simp [need, eq_comm]
theorem needImm_eq_ok (b : Bool) (u : Unit) : needImm b = .ok u ↔ b = true := by cases b <;> simp [needImm]
theorem needImm_eq_error (b : Bool) (e : ECode) : needImm b = .error e ↔ b = false ∧ e = .imm := by
  cases b <;> simp [needImm, eq_comm]
theorem needZero_eq_ok (b : Bool) (u : Unit) : needZero b = .ok u ↔ b = true := by cases b <;> simp [needZero]
theorem needZero_eq_error (b : Bool) (e : ECode) : needZero b = .error e ↔ b = false ∧ e = .mbz := by
  cases b <;> simp [needZero, eq_comm]

/-- A chain of checks: what it answers comes from its parts. -/
theorem bind_eq_ok {α β : Type} (x : Except ECode α) (g : α → Except ECode β) (b : β) :
    (x >>= g) = .ok b ↔ ∃ a, x = .ok a ∧ g a = .ok b := by
  cases x <;> simp [bind, Except.bind]
theorem bind_eq_error {α β : Type} (x : Except ECode α) (g : α → Except ECode β) (e : ECode) :
    (x >>= g) = .error e ↔ x = .error e ∨ ∃ a, x = .ok a ∧ g a = .error e := by
  cases x <;> simp [bind, Except.bind]

/-! ### When each check chain of the decoder answers a command

The used fields hold the codes of its operands and the unused fields are zero (30_encoding.md R67, R71). -/

theorem decodePlain_ok (i j : Instr) (f : Fields) :
    decodePlain i f = .ok j ↔ (f.rd = 0 ∧ f.ra = 0 ∧ f.rb = 0 ∧ f.lsel = 0 ∧ f.imm8 = 0) ∧ i = j := by
  simp [decodePlain, bind_eq_ok, needZero_eq_ok, pure, Except.pure, and_assoc]

theorem decodeDstSrc_ok (i : WReg → WSrc → Instr) (j : Instr) (f : Fields) :
    decodeDstSrc i f = .ok j ↔
      ∃ rd ra, f.rd = rd.sel ∧ f.ra = ra.sel ∧ f.rb = 0 ∧ f.lsel = 0 ∧ f.imm8 = 0 ∧ i rd ra = j := by
  simp [decodeDstSrc, bind_eq_ok, need_eq_ok, needZero_eq_ok, WReg.ofSel_eq_some, WSrc.ofSel_eq_some, pure, Except.pure,
    and_assoc]

theorem decodeWrw_ok (j : Instr) (f : Fields) (d : Limb) :
    decodeWrw f d = .ok j ↔
      ∃ (rd : WReg) (l : LimbIdx), f.rd = rd.sel ∧ f.lsel = l.sel ∧ f.ra = 0 ∧ f.rb = 0 ∧ f.imm8 = 0 ∧ .wrw rd l d = j := by
  simp [decodeWrw, bind_eq_ok, need_eq_ok, needZero_eq_ok, WReg.ofSel_eq_some, LimbIdx.ofSel_eq_some, pure, Except.pure,
    and_assoc]

theorem decodeRdw_ok (j : Instr) (f : Fields) :
    decodeRdw f = .ok j ↔
      ∃ (ra : WSrc) (l : LimbIdx), f.ra = ra.sel ∧ f.lsel = l.sel ∧ f.rd = 0 ∧ f.rb = 0 ∧ f.imm8 = 0 ∧ .rdw ra l = j := by
  simp [decodeRdw, bind_eq_ok, need_eq_ok, needZero_eq_ok, WSrc.ofSel_eq_some, LimbIdx.ofSel_eq_some, pure, Except.pure,
    and_assoc]

theorem decodeLsel_ok {α : Type} (sel : BitVec 4 → Option α) (i : α → Instr) (j : Instr) (f : Fields) :
    decodeLsel sel i f = .ok j ↔
      ∃ l, sel f.lsel = some l ∧ f.rd = 0 ∧ f.ra = 0 ∧ f.rb = 0 ∧ f.imm8 = 0 ∧ i l = j := by
  simp [decodeLsel, bind_eq_ok, need_eq_ok, needZero_eq_ok, pure, Except.pure, and_assoc]

theorem decodeCmp256_ok (j : Instr) (f : Fields) :
    decodeCmp256 f = .ok j ↔
      ∃ (ra rb : WSrc), f.ra = ra.sel ∧ f.rb = rb.sel ∧ f.rd = 0 ∧ f.lsel = 0 ∧ f.imm8 = 0 ∧ .cmp256 ra rb = j := by
  simp [decodeCmp256, bind_eq_ok, need_eq_ok, needZero_eq_ok, WSrc.ofSel_eq_some, pure, Except.pure, and_assoc]

theorem decodeRed256_ok (j : Instr) (f : Fields) :
    decodeRed256 f = .ok j ↔
      ∃ rd : WReg, f.rd = rd.sel ∧ f.ra = 0 ∧ f.rb = 0 ∧ f.lsel = 0 ∧ f.imm8 = 0 ∧ .red256 rd = j := by
  simp [decodeRed256, bind_eq_ok, need_eq_ok, needZero_eq_ok, WReg.ofSel_eq_some, pure, Except.pure, and_assoc]

theorem decodeMulw256_ok (j : Instr) (f : Fields) :
    decodeMulw256 f = .ok j ↔
      ∃ (rd : WReg) (ra rb : WSrc), f.rd = rd.sel ∧ f.ra = ra.sel ∧ f.rb = rb.sel ∧ f.lsel = 0 ∧ f.imm8 = 0 ∧
        .mulw256 rd ra rb = j := by
  simp [decodeMulw256, bind_eq_ok, need_eq_ok, needZero_eq_ok, WReg.ofSel_eq_some, WSrc.ofSel_eq_some, pure, Except.pure,
    and_assoc]

theorem decodeImm_ok (ok : Byte → Bool) (i : Byte → Instr) (j : Instr) (f : Fields) :
    decodeImm ok i f = .ok j ↔ ok f.imm8 = true ∧ f.rd = 0 ∧ f.ra = 0 ∧ f.rb = 0 ∧ f.lsel = 0 ∧ i f.imm8 = j := by
  simp [decodeImm, bind_eq_ok, needImm_eq_ok, needZero_eq_ok, pure, Except.pure, and_assoc]

end Sys2Proof
end

