-- ==== Sys2Proof/Laws/PerInstr.lean ====
section
/-! SUPPORT. The per-instruction family: the opcode byte of every command's own word is the command's opcode in the table. -/

namespace Sys2Proof.Laws

open Sys2Proof

/-- The top byte of the command's word names a row of the encoding table, and every field that row leaves unused is zero
(30_encoding.md R70, R71). -/
def EncodedOpcode.Statement (i : Instr) : Prop :=
  ∃ r ∈ encodingTable, r.opcode = (fieldsOf (encode i).1).opcode.toNat ∧ r.anyNonzero (fieldsOf (encode i).1) = false

/-- What remains to be checked for one command: its fields against its row. -/
theorem EncodedOpcode.of_row (i : Instr) (r : EncRow) (hr : r ∈ encodingTable) (ho : r.opcode = i.fields.opcode.toNat)
    (hz : r.anyNonzero i.fields = false) : EncodedOpcode.Statement i :=
  ⟨r, hr, by simpa [encode] using ho, by simpa [encode] using hz⟩

theorem EncodedOpcode.nop : EncodedOpcode.Statement .nop :=
  EncodedOpcode.of_row _ (encodingTable[0]) (List.getElem_mem _) rfl rfl

theorem EncodedOpcode.wrw (rd : WReg) (limb : LimbIdx) (d : Limb) : EncodedOpcode.Statement (.wrw rd limb d) :=
  EncodedOpcode.of_row _ (encodingTable[1]) (List.getElem_mem _) rfl rfl

theorem EncodedOpcode.rdw (ra : WSrc) (limb : LimbIdx) : EncodedOpcode.Statement (.rdw ra limb) :=
  EncodedOpcode.of_row _ (encodingTable[2]) (List.getElem_mem _) rfl rfl

theorem EncodedOpcode.wrx (half : Half) (d : Limb) : EncodedOpcode.Statement (.wrx half d) :=
  EncodedOpcode.of_row _ (encodingTable[3]) (List.getElem_mem _) rfl rfl

theorem EncodedOpcode.rdx (half : Half) : EncodedOpcode.Statement (.rdx half) :=
  EncodedOpcode.of_row _ (encodingTable[4]) (List.getElem_mem _) rfl rfl

theorem EncodedOpcode.rds (idx : StatusIdx) : EncodedOpcode.Statement (.rds idx) :=
  EncodedOpcode.of_row _ (encodingTable[5]) (List.getElem_mem _) rfl rfl

theorem EncodedOpcode.add256 (rd : WReg) (ra : WSrc) : EncodedOpcode.Statement (.add256 rd ra) :=
  EncodedOpcode.of_row _ (encodingTable[6]) (List.getElem_mem _) rfl rfl

theorem EncodedOpcode.sub256 (rd : WReg) (ra : WSrc) : EncodedOpcode.Statement (.sub256 rd ra) :=
  EncodedOpcode.of_row _ (encodingTable[7]) (List.getElem_mem _) rfl rfl

theorem EncodedOpcode.cmp256 (ra : WSrc) (rb : WSrc) : EncodedOpcode.Statement (.cmp256 ra rb) :=
  EncodedOpcode.of_row _ (encodingTable[8]) (List.getElem_mem _) rfl rfl

theorem EncodedOpcode.red256 (rd : WReg) : EncodedOpcode.Statement (.red256 rd) :=
  EncodedOpcode.of_row _ (encodingTable[9]) (List.getElem_mem _) rfl rfl

theorem EncodedOpcode.muls256 (rd : WReg) (ra : WSrc) (d : Limb) : EncodedOpcode.Statement (.muls256 rd ra d) :=
  EncodedOpcode.of_row _ (encodingTable[10]) (List.getElem_mem _) rfl rfl

theorem EncodedOpcode.mulw256 (rd : WReg) (ra : WSrc) (rb : WSrc) : EncodedOpcode.Statement (.mulw256 rd ra rb) :=
  EncodedOpcode.of_row _ (encodingTable[11]) (List.getElem_mem _) rfl rfl

theorem EncodedOpcode.xor256 (rd : WReg) (ra : WSrc) : EncodedOpcode.Statement (.xor256 rd ra) :=
  EncodedOpcode.of_row _ (encodingTable[12]) (List.getElem_mem _) rfl rfl

theorem EncodedOpcode.init128 : EncodedOpcode.Statement .init128 :=
  EncodedOpcode.of_row _ (encodingTable[13]) (List.getElem_mem _) rfl rfl

theorem EncodedOpcode.foldb (b : Byte) : EncodedOpcode.Statement (.foldb b) :=
  EncodedOpcode.of_row _ (encodingTable[14]) (List.getElem_mem _) rfl rfl

theorem EncodedOpcode.lenbind : EncodedOpcode.Statement .lenbind :=
  EncodedOpcode.of_row _ (encodingTable[15]) (List.getElem_mem _) rfl rfl

theorem EncodedOpcode.rotl128 (amount : Byte) : EncodedOpcode.Statement (.rotl128 amount) :=
  EncodedOpcode.of_row _ (encodingTable[16]) (List.getElem_mem _) rfl rfl

theorem EncodedOpcode.mulk128 (k : KIdx) : EncodedOpcode.Statement (.mulk128 k) :=
  EncodedOpcode.of_row _ (encodingTable[17]) (List.getElem_mem _) rfl rfl

theorem EncodedOpcode.hlmix128 : EncodedOpcode.Statement .hlmix128 :=
  EncodedOpcode.of_row _ (encodingTable[18]) (List.getElem_mem _) rfl rfl

theorem EncodedOpcode.xshr128 (amount : Byte) : EncodedOpcode.Statement (.xshr128 amount) :=
  EncodedOpcode.of_row _ (encodingTable[19]) (List.getElem_mem _) rfl rfl

theorem EncodedOpcode.mix128 : EncodedOpcode.Statement .mix128 :=
  EncodedOpcode.of_row _ (encodingTable[20]) (List.getElem_mem _) rfl rfl

theorem EncodedOpcode.init256 : EncodedOpcode.Statement .init256 :=
  EncodedOpcode.of_row _ (encodingTable[21]) (List.getElem_mem _) rfl rfl

theorem EncodedOpcode.absorb256 (b : Byte) : EncodedOpcode.Statement (.absorb256 b) :=
  EncodedOpcode.of_row _ (encodingTable[22]) (List.getElem_mem _) rfl rfl

end Sys2Proof.Laws
end

