-- ==== Sys2Proof/Laws/State.lean ====
section
/-! SUPPORT. One lemma per field per update of State, true by rfl, so that no later proof unfolds a record update. -/

namespace Sys2Proof.Machine

open Sys2Proof

@[simp] theorem State.setX_w0 (s : State) (v : Word128) : (s.setX v).w0 = s.w0 := rfl
@[simp] theorem State.setX_w1 (s : State) (v : Word128) : (s.setX v).w1 = s.w1 := rfl
@[simp] theorem State.setX_w2 (s : State) (v : Word128) : (s.setX v).w2 = s.w2 := rfl
@[simp] theorem State.setX_w3 (s : State) (v : Word128) : (s.setX v).w3 = s.w3 := rfl
@[simp] theorem State.setX_x (s : State) (v : Word128) : (s.setX v).x = v := rfl
@[simp] theorem State.setX_len (s : State) (v : Word128) : (s.setX v).len = s.len := rfl
@[simp] theorem State.setX_pos (s : State) (v : Word128) : (s.setX v).pos = s.pos := rfl
@[simp] theorem State.setX_cmp (s : State) (v : Word128) : (s.setX v).cmp = s.cmp := rfl
@[simp] theorem State.setX_err (s : State) (v : Word128) : (s.setX v).err = s.err := rfl
@[simp] theorem State.setX_ecode (s : State) (v : Word128) : (s.setX v).ecode = s.ecode := rfl
@[simp] theorem State.setX_pending (s : State) (v : Word128) : (s.setX v).pending = s.pending := rfl
@[simp] theorem State.setX_responses (s : State) (v : Word128) : (s.setX v).responses = s.responses := rfl

@[simp] theorem State.setLen_w0 (s : State) (v : Word128) : (s.setLen v).w0 = s.w0 := rfl
@[simp] theorem State.setLen_w1 (s : State) (v : Word128) : (s.setLen v).w1 = s.w1 := rfl
@[simp] theorem State.setLen_w2 (s : State) (v : Word128) : (s.setLen v).w2 = s.w2 := rfl
@[simp] theorem State.setLen_w3 (s : State) (v : Word128) : (s.setLen v).w3 = s.w3 := rfl
@[simp] theorem State.setLen_x (s : State) (v : Word128) : (s.setLen v).x = s.x := rfl
@[simp] theorem State.setLen_len (s : State) (v : Word128) : (s.setLen v).len = v := rfl
@[simp] theorem State.setLen_pos (s : State) (v : Word128) : (s.setLen v).pos = s.pos := rfl
@[simp] theorem State.setLen_cmp (s : State) (v : Word128) : (s.setLen v).cmp = s.cmp := rfl
@[simp] theorem State.setLen_err (s : State) (v : Word128) : (s.setLen v).err = s.err := rfl
@[simp] theorem State.setLen_ecode (s : State) (v : Word128) : (s.setLen v).ecode = s.ecode := rfl
@[simp] theorem State.setLen_pending (s : State) (v : Word128) : (s.setLen v).pending = s.pending := rfl
@[simp] theorem State.setLen_responses (s : State) (v : Word128) : (s.setLen v).responses = s.responses := rfl

@[simp] theorem State.setPos_w0 (s : State) (v : BitVec 64) : (s.setPos v).w0 = s.w0 := rfl
@[simp] theorem State.setPos_w1 (s : State) (v : BitVec 64) : (s.setPos v).w1 = s.w1 := rfl
@[simp] theorem State.setPos_w2 (s : State) (v : BitVec 64) : (s.setPos v).w2 = s.w2 := rfl
@[simp] theorem State.setPos_w3 (s : State) (v : BitVec 64) : (s.setPos v).w3 = s.w3 := rfl
@[simp] theorem State.setPos_x (s : State) (v : BitVec 64) : (s.setPos v).x = s.x := rfl
@[simp] theorem State.setPos_len (s : State) (v : BitVec 64) : (s.setPos v).len = s.len := rfl
@[simp] theorem State.setPos_pos (s : State) (v : BitVec 64) : (s.setPos v).pos = v := rfl
@[simp] theorem State.setPos_cmp (s : State) (v : BitVec 64) : (s.setPos v).cmp = s.cmp := rfl
@[simp] theorem State.setPos_err (s : State) (v : BitVec 64) : (s.setPos v).err = s.err := rfl
@[simp] theorem State.setPos_ecode (s : State) (v : BitVec 64) : (s.setPos v).ecode = s.ecode := rfl
@[simp] theorem State.setPos_pending (s : State) (v : BitVec 64) : (s.setPos v).pending = s.pending := rfl
@[simp] theorem State.setPos_responses (s : State) (v : BitVec 64) : (s.setPos v).responses = s.responses := rfl

@[simp] theorem State.setCmp_w0 (s : State) (c : BitVec 2) : (s.setCmp c).w0 = s.w0 := rfl
@[simp] theorem State.setCmp_w1 (s : State) (c : BitVec 2) : (s.setCmp c).w1 = s.w1 := rfl
@[simp] theorem State.setCmp_w2 (s : State) (c : BitVec 2) : (s.setCmp c).w2 = s.w2 := rfl
@[simp] theorem State.setCmp_w3 (s : State) (c : BitVec 2) : (s.setCmp c).w3 = s.w3 := rfl
@[simp] theorem State.setCmp_x (s : State) (c : BitVec 2) : (s.setCmp c).x = s.x := rfl
@[simp] theorem State.setCmp_len (s : State) (c : BitVec 2) : (s.setCmp c).len = s.len := rfl
@[simp] theorem State.setCmp_pos (s : State) (c : BitVec 2) : (s.setCmp c).pos = s.pos := rfl
@[simp] theorem State.setCmp_cmp (s : State) (c : BitVec 2) : (s.setCmp c).cmp = c := rfl
@[simp] theorem State.setCmp_err (s : State) (c : BitVec 2) : (s.setCmp c).err = s.err := rfl
@[simp] theorem State.setCmp_ecode (s : State) (c : BitVec 2) : (s.setCmp c).ecode = s.ecode := rfl
@[simp] theorem State.setCmp_pending (s : State) (c : BitVec 2) : (s.setCmp c).pending = s.pending := rfl
@[simp] theorem State.setCmp_responses (s : State) (c : BitVec 2) : (s.setCmp c).responses = s.responses := rfl

@[simp] theorem State.setPending_w0 (s : State) (as : List HostAction) : (s.setPending as).w0 = s.w0 := rfl
@[simp] theorem State.setPending_w1 (s : State) (as : List HostAction) : (s.setPending as).w1 = s.w1 := rfl
@[simp] theorem State.setPending_w2 (s : State) (as : List HostAction) : (s.setPending as).w2 = s.w2 := rfl
@[simp] theorem State.setPending_w3 (s : State) (as : List HostAction) : (s.setPending as).w3 = s.w3 := rfl
@[simp] theorem State.setPending_x (s : State) (as : List HostAction) : (s.setPending as).x = s.x := rfl
@[simp] theorem State.setPending_len (s : State) (as : List HostAction) : (s.setPending as).len = s.len := rfl
@[simp] theorem State.setPending_pos (s : State) (as : List HostAction) : (s.setPending as).pos = s.pos := rfl
@[simp] theorem State.setPending_cmp (s : State) (as : List HostAction) : (s.setPending as).cmp = s.cmp := rfl
@[simp] theorem State.setPending_err (s : State) (as : List HostAction) : (s.setPending as).err = s.err := rfl
@[simp] theorem State.setPending_ecode (s : State) (as : List HostAction) : (s.setPending as).ecode = s.ecode := rfl
@[simp] theorem State.setPending_pending (s : State) (as : List HostAction) : (s.setPending as).pending = as := rfl
@[simp] theorem State.setPending_responses (s : State) (as : List HostAction) : (s.setPending as).responses = s.responses := rfl

@[simp] theorem State.respond_w0 (s : State) (q : BitVec 64) : (s.respond q).w0 = s.w0 := rfl
@[simp] theorem State.respond_w1 (s : State) (q : BitVec 64) : (s.respond q).w1 = s.w1 := rfl
@[simp] theorem State.respond_w2 (s : State) (q : BitVec 64) : (s.respond q).w2 = s.w2 := rfl
@[simp] theorem State.respond_w3 (s : State) (q : BitVec 64) : (s.respond q).w3 = s.w3 := rfl
@[simp] theorem State.respond_x (s : State) (q : BitVec 64) : (s.respond q).x = s.x := rfl
@[simp] theorem State.respond_len (s : State) (q : BitVec 64) : (s.respond q).len = s.len := rfl
@[simp] theorem State.respond_pos (s : State) (q : BitVec 64) : (s.respond q).pos = s.pos := rfl
@[simp] theorem State.respond_cmp (s : State) (q : BitVec 64) : (s.respond q).cmp = s.cmp := rfl
@[simp] theorem State.respond_err (s : State) (q : BitVec 64) : (s.respond q).err = s.err := rfl
@[simp] theorem State.respond_ecode (s : State) (q : BitVec 64) : (s.respond q).ecode = s.ecode := rfl
@[simp] theorem State.respond_pending (s : State) (q : BitVec 64) : (s.respond q).pending = s.pending := rfl
@[simp] theorem State.respond_responses (s : State) (q : BitVec 64) : (s.respond q).responses = s.responses ++ [⟨.ok, q⟩] := rfl

@[simp] theorem State.respondErr_w0 (s : State) (c : ECode) : (s.respondErr c).w0 = s.w0 := rfl
@[simp] theorem State.respondErr_w1 (s : State) (c : ECode) : (s.respondErr c).w1 = s.w1 := rfl
@[simp] theorem State.respondErr_w2 (s : State) (c : ECode) : (s.respondErr c).w2 = s.w2 := rfl
@[simp] theorem State.respondErr_w3 (s : State) (c : ECode) : (s.respondErr c).w3 = s.w3 := rfl
@[simp] theorem State.respondErr_x (s : State) (c : ECode) : (s.respondErr c).x = s.x := rfl
@[simp] theorem State.respondErr_len (s : State) (c : ECode) : (s.respondErr c).len = s.len := rfl
@[simp] theorem State.respondErr_pos (s : State) (c : ECode) : (s.respondErr c).pos = s.pos := rfl
@[simp] theorem State.respondErr_cmp (s : State) (c : ECode) : (s.respondErr c).cmp = s.cmp := rfl
@[simp] theorem State.respondErr_err (s : State) (c : ECode) : (s.respondErr c).err = s.err := rfl
@[simp] theorem State.respondErr_ecode (s : State) (c : ECode) : (s.respondErr c).ecode = s.ecode := rfl
@[simp] theorem State.respondErr_pending (s : State) (c : ECode) : (s.respondErr c).pending = s.pending := rfl
@[simp] theorem State.respondErr_responses (s : State) (c : ECode) : (s.respondErr c).responses = s.responses ++ [⟨.err, causeData c⟩] := rfl

@[simp] theorem State.afterReset_w0 (s : State) (draw : Draw) : (s.afterReset draw).w0 = draw.w0 := rfl
@[simp] theorem State.afterReset_w1 (s : State) (draw : Draw) : (s.afterReset draw).w1 = draw.w1 := rfl
@[simp] theorem State.afterReset_w2 (s : State) (draw : Draw) : (s.afterReset draw).w2 = draw.w2 := rfl
@[simp] theorem State.afterReset_w3 (s : State) (draw : Draw) : (s.afterReset draw).w3 = draw.w3 := rfl
@[simp] theorem State.afterReset_x (s : State) (draw : Draw) : (s.afterReset draw).x = draw.x := rfl
@[simp] theorem State.afterReset_len (s : State) (draw : Draw) : (s.afterReset draw).len = draw.len := rfl
@[simp] theorem State.afterReset_pos (s : State) (draw : Draw) : (s.afterReset draw).pos = draw.pos := rfl
@[simp] theorem State.afterReset_cmp (s : State) (draw : Draw) : (s.afterReset draw).cmp = 0 := rfl
@[simp] theorem State.afterReset_err (s : State) (draw : Draw) : (s.afterReset draw).err = false := rfl
@[simp] theorem State.afterReset_ecode (s : State) (draw : Draw) : (s.afterReset draw).ecode = 0 := rfl
@[simp] theorem State.afterReset_pending (s : State) (draw : Draw) : (s.afterReset draw).pending = s.pending := rfl
@[simp] theorem State.afterReset_responses (s : State) (draw : Draw) : (s.afterReset draw).responses = s.responses := rfl

@[simp] theorem State.setWide_x (s : State) (d : WReg) (v : Wide) : (s.setWide d v).x = s.x := by cases d <;> rfl
@[simp] theorem State.setWide_len (s : State) (d : WReg) (v : Wide) : (s.setWide d v).len = s.len := by cases d <;> rfl
@[simp] theorem State.setWide_pos (s : State) (d : WReg) (v : Wide) : (s.setWide d v).pos = s.pos := by cases d <;> rfl
@[simp] theorem State.setWide_cmp (s : State) (d : WReg) (v : Wide) : (s.setWide d v).cmp = s.cmp := by cases d <;> rfl
@[simp] theorem State.setWide_err (s : State) (d : WReg) (v : Wide) : (s.setWide d v).err = s.err := by cases d <;> rfl
@[simp] theorem State.setWide_ecode (s : State) (d : WReg) (v : Wide) : (s.setWide d v).ecode = s.ecode := by cases d <;> rfl
@[simp] theorem State.setWide_pending (s : State) (d : WReg) (v : Wide) : (s.setWide d v).pending = s.pending := by cases d <;> rfl
@[simp] theorem State.setWide_responses (s : State) (d : WReg) (v : Wide) : (s.setWide d v).responses = s.responses := by cases d <;> rfl

/-- Writing a wide register changes that register alone (10_state.md R23). -/
@[simp] theorem State.wide_setWide (s : State) (d r : WReg) (v : Wide) :
    (s.setWide d v).wide r = if r = d then v else s.wide r := by
  cases d <;> cases r <;> rfl

@[simp] theorem State.recordFault_w0 (s : State) (c : ECode) : (s.recordFault c).w0 = s.w0 := by
  unfold State.recordFault; split <;> rfl
@[simp] theorem State.recordFault_w1 (s : State) (c : ECode) : (s.recordFault c).w1 = s.w1 := by
  unfold State.recordFault; split <;> rfl
@[simp] theorem State.recordFault_w2 (s : State) (c : ECode) : (s.recordFault c).w2 = s.w2 := by
  unfold State.recordFault; split <;> rfl
@[simp] theorem State.recordFault_w3 (s : State) (c : ECode) : (s.recordFault c).w3 = s.w3 := by
  unfold State.recordFault; split <;> rfl
@[simp] theorem State.recordFault_x (s : State) (c : ECode) : (s.recordFault c).x = s.x := by
  unfold State.recordFault; split <;> rfl
@[simp] theorem State.recordFault_len (s : State) (c : ECode) : (s.recordFault c).len = s.len := by
  unfold State.recordFault; split <;> rfl
@[simp] theorem State.recordFault_pos (s : State) (c : ECode) : (s.recordFault c).pos = s.pos := by
  unfold State.recordFault; split <;> rfl
@[simp] theorem State.recordFault_cmp (s : State) (c : ECode) : (s.recordFault c).cmp = s.cmp := by
  unfold State.recordFault; split <;> rfl
@[simp] theorem State.recordFault_pending (s : State) (c : ECode) : (s.recordFault c).pending = s.pending := by
  unfold State.recordFault; split <;> rfl
@[simp] theorem State.recordFault_responses (s : State) (c : ECode) : (s.recordFault c).responses = s.responses := by
  unfold State.recordFault; split <;> rfl
@[simp] theorem State.recordFault_err (s : State) (c : ECode) : (s.recordFault c).err = true := by
  unfold State.recordFault; split <;> simp_all
@[simp] theorem State.recordFault_ecode (s : State) (c : ECode) :
    (s.recordFault c).ecode = if s.err then s.ecode else causeCode c := by
  unfold State.recordFault; split <;> rfl

@[simp] theorem State.raiseIllegal_w0 (s : State) (c : ECode) :
    (s.raiseIllegal c).w0 = s.w0 := by simp [State.raiseIllegal]
@[simp] theorem State.raiseIllegal_w1 (s : State) (c : ECode) :
    (s.raiseIllegal c).w1 = s.w1 := by simp [State.raiseIllegal]
@[simp] theorem State.raiseIllegal_w2 (s : State) (c : ECode) :
    (s.raiseIllegal c).w2 = s.w2 := by simp [State.raiseIllegal]
@[simp] theorem State.raiseIllegal_w3 (s : State) (c : ECode) :
    (s.raiseIllegal c).w3 = s.w3 := by simp [State.raiseIllegal]
@[simp] theorem State.raiseIllegal_x (s : State) (c : ECode) :
    (s.raiseIllegal c).x = s.x := by simp [State.raiseIllegal]
@[simp] theorem State.raiseIllegal_len (s : State) (c : ECode) :
    (s.raiseIllegal c).len = s.len := by simp [State.raiseIllegal]
@[simp] theorem State.raiseIllegal_pos (s : State) (c : ECode) :
    (s.raiseIllegal c).pos = s.pos := by simp [State.raiseIllegal]
@[simp] theorem State.raiseIllegal_cmp (s : State) (c : ECode) :
    (s.raiseIllegal c).cmp = s.cmp := by simp [State.raiseIllegal]
@[simp] theorem State.raiseIllegal_err (s : State) (c : ECode) :
    (s.raiseIllegal c).err = true := by simp [State.raiseIllegal]
@[simp] theorem State.raiseIllegal_ecode (s : State) (c : ECode) :
    (s.raiseIllegal c).ecode = if s.err then s.ecode else causeCode c := by simp [State.raiseIllegal]
@[simp] theorem State.raiseIllegal_pending (s : State) (c : ECode) :
    (s.raiseIllegal c).pending = s.pending := by simp [State.raiseIllegal]
@[simp] theorem State.raiseIllegal_responses (s : State) (c : ECode) :
    (s.raiseIllegal c).responses = s.responses ++ [⟨.err, causeData c⟩] := by simp [State.raiseIllegal]

/-! ### The view of the wide registers under the other updates -/

@[simp] theorem State.wide_setX (s : State) (v : Word128) (r : WReg) : (s.setX v).wide r = s.wide r := by
  cases r <;> simp [State.wide]
@[simp] theorem State.wide_setLen (s : State) (v : Word128) (r : WReg) : (s.setLen v).wide r = s.wide r := by
  cases r <;> simp [State.wide]
@[simp] theorem State.wide_setPos (s : State) (v : BitVec 64) (r : WReg) : (s.setPos v).wide r = s.wide r := by
  cases r <;> simp [State.wide]
@[simp] theorem State.wide_setCmp (s : State) (c : BitVec 2) (r : WReg) : (s.setCmp c).wide r = s.wide r := by
  cases r <;> simp [State.wide]
@[simp] theorem State.wide_setPending (s : State) (as : List HostAction) (r : WReg) : (s.setPending as).wide r = s.wide r := by
  cases r <;> simp [State.wide]
@[simp] theorem State.wide_respond (s : State) (q : BitVec 64) (r : WReg) : (s.respond q).wide r = s.wide r := by
  cases r <;> simp [State.wide]
@[simp] theorem State.wide_respondErr (s : State) (c : ECode) (r : WReg) : (s.respondErr c).wide r = s.wide r := by
  cases r <;> simp [State.wide]
@[simp] theorem State.wide_recordFault (s : State) (c : ECode) (r : WReg) : (s.recordFault c).wide r = s.wide r := by
  cases r <;> simp [State.wide]
@[simp] theorem State.wide_raiseIllegal (s : State) (c : ECode) (r : WReg) : (s.raiseIllegal c).wide r = s.wide r := by
  cases r <;> simp [State.wide]

/-- A wide source reads the constants of the configuration and the registers of the state (10_state.md R22). -/
theorem State.readSrc_congr (s t : State) (h : ∀ r, t.wide r = s.wide r) (a : WSrc) : t.readSrc a = s.readSrc a := by
  cases a <;> simp [State.readSrc, h]

@[simp] theorem State.readSrc_reg (s : State) (r : WReg) : s.readSrc (.reg r) = s.wide r := rfl
@[simp] theorem State.readSrc_k (s : State) : s.readSrc .k = Config.K := rfl
@[simp] theorem State.readSrc_r (s : State) : s.readSrc .r = Config.R := rfl
@[simp] theorem State.readSrc_p (s : State) : s.readSrc .p = Config.P := rfl

/-- Two states are equal when every wide register and every other field is. -/
theorem State.ext_wide {s t : State} (hw : ∀ r, s.wide r = t.wide r) (hx : s.x = t.x) (hl : s.len = t.len)
    (hp : s.pos = t.pos) (hc : s.cmp = t.cmp) (he : s.err = t.err) (hec : s.ecode = t.ecode)
    (hpe : s.pending = t.pending) (hr : s.responses = t.responses) : s = t := by
  have h0 := hw .w0
  have h1 := hw .w1
  have h2 := hw .w2
  have h3 := hw .w3
  cases s
  cases t
  simp_all [State.wide]

end Sys2Proof.Machine
end

