-- ==== Sys2Proof/Laws/Step.lean ====
section
/-! SUPPORT. What a step can do, said once, and the small lemmas of the host port. -/

namespace Sys2Proof.Machine

open Sys2Proof

/-- Taking the next action from the port. -/
theorem fetchAction_cons (s : State) (a : HostAction) (rest : List HostAction) (h : s.pending = a :: rest) :
    fetchAction s = some (a, s.setPending rest) := by
  simp [fetchAction, h]

theorem fetchAction_nil (s : State) (h : s.pending = []) : fetchAction s = none := by
  simp [fetchAction, h]

/-- A step with an action pending is that action on the state without it. -/
theorem step_cons (s : State) (a : HostAction) (rest : List HostAction) (h : s.pending = a :: rest) :
    step s = runAction a (s.setPending rest) := by
  simp [step, fetchAction_cons s a rest h]

theorem step_nil (s : State) (h : s.pending = []) : step s = .next s := by
  simp [step, fetchAction_nil s h]

/-- Everything a step that answers a next state can have done: held the state, drawn a reset, executed a legal command, or
taken `IllegalCommand`. -/
theorem step_cases {s t : State} (h : step s = .next t) :
    (s.pending = [] ∧ t = s) ∨
    (∃ draw rest, s.pending = .reset draw :: rest ∧ t = (s.setPending rest).afterReset draw) ∨
    (∃ w d rest i, s.pending = .command w d :: rest ∧ decode w d = .ok i ∧ exec i (s.setPending rest) = .next t) ∨
    (∃ w d rest c, s.pending = .command w d :: rest ∧ decode w d = .error c ∧
      t = (s.setPending rest).raiseIllegal c) := by
  cases hp : s.pending with
  | nil =>
    rw [step_nil s hp] at h
    cases h
    exact .inl ⟨rfl, rfl⟩
  | cons a rest =>
    rw [step_cons s a rest hp] at h
    cases a with
    | reset draw =>
      cases h
      exact .inr (.inl ⟨draw, rest, rfl, rfl⟩)
    | command w d =>
      cases hd : decode w d with
      | ok i => exact .inr (.inr (.inl ⟨w, d, rest, i, rfl, hd, by simpa [runAction, runCommand, hd] using h⟩))
      | error c =>
        have ht : t = (s.setPending rest).raiseIllegal c := by
          simpa [runAction, runCommand, hd, eq_comm] using h
        exact .inr (.inr (.inr ⟨w, d, rest, c, rfl, hd, ht⟩))

/-- A run of one step more: when the first step answers a next state, the run goes on from it. -/
theorem core_run_succ {s t : State} (k : Nat) (h : step s = .next t) : Sys2Proof.core.run (k + 1) s = Sys2Proof.core.run k t := by
  have h' : Sys2Proof.core.step s = .next t := h
  simp only [Host.Core.run, h']

/-- A run of no step. -/
theorem core_run_zero (s : State) : Sys2Proof.core.run 0 s = .next s := rfl

end Sys2Proof.Machine
end

