-- ==== Sys2Proof/Laws/Wide.lean ====
section
/-! SUPPORT. What each shared operation of the 256-bit unit does, said once as numbers; later proofs cite these and do not unfold
the loops. The reduction is left to the statements. -/

namespace Sys2Proof

/-- The adder adds modulo 2^256 (40_wide256.md R91). -/
theorem add256_val (r a : Wide) : (add256 r a).val = (r.val + a.val) % 2 ^ 256 := by
  have e0 := addLimb_exact r.l0 a.l0 0
  have e1 := addLimb_exact r.l1 a.l1 (addLimb r.l0 a.l0 0).2
  have e2 := addLimb_exact r.l2 a.l2 (addLimb r.l1 a.l1 (addLimb r.l0 a.l0 0).2).2
  have e3 := addLimb_exact r.l3 a.l3 (addLimb r.l2 a.l2 (addLimb r.l1 a.l1 (addLimb r.l0 a.l0 0).2).2).2
  have hl := (add256 r a).val_lt
  simp only [add256, Wide.val] at *
  omega

/-- The subtracter subtracts modulo 2^256 (40_wide256.md R93). -/
theorem sub256_val (r a : Wide) : ((sub256 r a).val : Int) = ((r.val : Int) - a.val) % 2 ^ 256 := by
  have b0 := subLimb_borrow_le r.l0 a.l0 0
  have b1 := subLimb_borrow_le r.l1 a.l1 (subLimb r.l0 a.l0 0).2
  have b2 := subLimb_borrow_le r.l2 a.l2 (subLimb r.l1 a.l1 (subLimb r.l0 a.l0 0).2).2
  have e0 := subLimb_exact r.l0 a.l0 0 (by omega)
  have e1 := subLimb_exact r.l1 a.l1 _ b0
  have e2 := subLimb_exact r.l2 a.l2 _ b1
  have e3 := subLimb_exact r.l3 a.l3 _ b2
  have hl := (sub256 r a).val_lt
  simp only [sub256, Wide.val] at *
  push_cast at *
  omega

/-- The comparison decides the order of the two numbers (40_wide256.md R95). -/
theorem cmp256_spec (a b : Wide) :
    (cmp256 a b = .less ∧ a.val < b.val) ∨ (cmp256 a b = .equal ∧ a.val = b.val) ∨
      (cmp256 a b = .greater ∧ b.val < a.val) := by
  have h0 := a.l0.isLt
  have h1 := a.l1.isLt
  have h2 := a.l2.isLt
  have g0 := b.l0.isLt
  have g1 := b.l1.isLt
  have g2 := b.l2.isLt
  unfold cmp256 Wide.val
  rcases cmpLimb_spec a.l3 b.l3 with ⟨e3, c3⟩ | ⟨e3, c3⟩ | ⟨e3, c3⟩ <;> rw [e3]
  · exact .inl ⟨rfl, by omega⟩
  · simp only [CmpResult.orElse]
    rcases cmpLimb_spec a.l2 b.l2 with ⟨e2, c2⟩ | ⟨e2, c2⟩ | ⟨e2, c2⟩ <;> rw [e2]
    · exact .inl ⟨rfl, by omega⟩
    · simp only
      rcases cmpLimb_spec a.l1 b.l1 with ⟨e1, c1⟩ | ⟨e1, c1⟩ | ⟨e1, c1⟩ <;> rw [e1]
      · exact .inl ⟨rfl, by omega⟩
      · simp only
        rcases cmpLimb_spec a.l0 b.l0 with ⟨e0, c0⟩ | ⟨e0, c0⟩ | ⟨e0, c0⟩ <;> rw [e0]
        · exact .inl ⟨rfl, by omega⟩
        · exact .inr (.inl ⟨rfl, by omega⟩)
        · exact .inr (.inr ⟨rfl, by omega⟩)
      · exact .inr (.inr ⟨rfl, by omega⟩)
    · exact .inr (.inr ⟨rfl, by omega⟩)
  · exact .inr (.inr ⟨rfl, by omega⟩)

/-- The scalar multiplier multiplies modulo 2^256 (40_wide256.md R99). -/
theorem muls256_val (a : Wide) (b : Limb) : (muls256 a b).val = (a.val * b.toNat) % 2 ^ 256 := by
  have e0 := mulLimb_exact a.l0 b 0
  have e1 := mulLimb_exact a.l1 b (mulLimb a.l0 b 0).2
  have e2 := mulLimb_exact a.l2 b (mulLimb a.l1 b (mulLimb a.l0 b 0).2).2
  have e3 := mulLimb_exact a.l3 b (mulLimb a.l2 b (mulLimb a.l1 b (mulLimb a.l0 b 0).2).2).2
  have hl := (muls256 a b).val_lt
  simp only [muls256, Wide.val] at *
  have : (a.l0.toNat + 2 ^ 64 * a.l1.toNat + 2 ^ 128 * a.l2.toNat + 2 ^ 192 * a.l3.toNat) * b.toNat =
      a.l0.toNat*b.toNat + 2 ^ 64*(a.l1.toNat*b.toNat)+2 ^ 128*(a.l2.toNat*b.toNat)+
        2 ^ 192*(a.l3.toNat*b.toNat) := by ring
  rw [this]
  generalize a.l0.toNat*b.toNat = p0 at *
  generalize a.l1.toNat*b.toNat = p1 at *
  generalize a.l2.toNat*b.toNat = p2 at *
  generalize a.l3.toNat*b.toNat = p3 at *
  omega

/-- The wide multiplier multiplies modulo 2^256 (40_wide256.md R101). -/
theorem mulw256_val (a b : Wide) : (mulw256 a b).val = (a.val * b.val) % 2 ^ 256 := by
  simp only [mulw256, List.foldl, mulwPass, add256_val, limbShift_val, muls256_val, Wide.val_zero, Wide.limb]
  conv_rhs => rw [show b.val =
    b.l0.toNat + 2 ^ 64 * b.l1.toNat + 2 ^ 128 * b.l2.toNat + 2 ^ 192 * b.l3.toNat from rfl]
  have : a.val * (b.l0.toNat + 2 ^ 64 * b.l1.toNat + 2 ^ 128 * b.l2.toNat + 2 ^ 192 * b.l3.toNat) =
      a.val*b.l0.toNat + 2 ^ 64*(a.val*b.l1.toNat)+2 ^ 128*(a.val*b.l2.toNat)+
        2 ^ 192*(a.val*b.l3.toNat) := by ring
  rw [this]
  generalize a.val*b.l0.toNat = p0 at *
  generalize a.val*b.l1.toNat = p1 at *
  generalize a.val*b.l2.toNat = p2 at *
  generalize a.val*b.l3.toNat = p3 at *
  simp only [Nat.mul_zero, Nat.pow_zero, Nat.mul_one]
  omega

/-- The limb-wise exclusive or is that of the two numbers (40_wide256.md R103). -/
theorem xor256_val (a b : Wide) : (xor256 a b).val = a.val ^^^ b.val := by
  have h : ∀ v : Wide, v.val = (v.l3 ++ (v.l2 ++ (v.l1 ++ v.l0))).toNat := by
    intro v
    have h0 := v.l0.isLt
    have h1 := v.l1.isLt
    have h2 := v.l2.isLt
    have e1 : (v.l1 ++ v.l0).toNat = v.l1.toNat * 2 ^ 64 + v.l0.toNat := by
      rw [BitVec.toNat_append, ← Nat.shiftLeft_add_eq_or_of_lt h0, Nat.shiftLeft_eq]
    have e2 : (v.l2 ++ (v.l1 ++ v.l0)).toNat = v.l2.toNat * 2 ^ 128 + (v.l1 ++ v.l0).toNat := by
      rw [BitVec.toNat_append, ← Nat.shiftLeft_add_eq_or_of_lt (v.l1 ++ v.l0).isLt, Nat.shiftLeft_eq]
    have e3 : (v.l3 ++ (v.l2 ++ (v.l1 ++ v.l0))).toNat = v.l3.toNat * 2 ^ 192 + (v.l2 ++ (v.l1 ++ v.l0)).toNat := by
      rw [BitVec.toNat_append, ← Nat.shiftLeft_add_eq_or_of_lt (v.l2 ++ (v.l1 ++ v.l0)).isLt, Nat.shiftLeft_eq]
    rw [e3, e2, e1]; simp only [Wide.val]; omega
  rw [h, h a, h b, ← BitVec.toNat_xor]
  congr 1
  simp only [xor256, BitVec.xor_append]

end Sys2Proof
end

