-- ==== Sys2Proof/Tests/Slice0.lean ====
section
/-! SUPPORT. Tests of the model: expected values are the spec's (30_encoding.md R75 and 95_test_vectors.md), each test names its
table. And witnesses: states and operands that meet the hypotheses of the statements, at the edges of their ranges. -/

open Sys2Proof Sys2Proof.Machine

namespace Sys2Proof.Tests

/-! ### Helpers -/

/-- One value read from the next state of a step. -/
def seen {α : Type} (o : StepOutcome) (f : State → α) : Option α :=
  match o with
  | .next s => some (f s)
  | .fault _ => none
  | .refused _ => none

/-- A state that holds `X` and LEN. -/
def withX (x len : Word128) : State := { State.reset with x := x, len := len }

/-- A state that holds `W0` and `W1`. -/
def withW (a b : Wide) : State := { State.reset with w0 := a, w1 := b }

/-- What one presented word answers: the last response and STATUS after it. -/
def answer (w : BitVec 32) (s : State) : Option (List Response × BitVec 64) :=
  seen (runCommand w 0 s) (fun t => (t.responses, t.statusWord))

/-- The code the decoder reports for an illegal word. -/
def cause (w : BitVec 32) : Option ECode :=
  match decode w 0 with
  | .ok _ => none
  | .error c => some c

/-- The value 2^256 - 1. -/
def top : Wide := ⟨0xffffffffffffffff, 0xffffffffffffffff, 0xffffffffffffffff, 0xffffffffffffffff⟩

/-- The parameter sets TS, TW and TR of 95_test_vectors.md section 2; they are not the hardware's constants. -/
def setTS : Params := ⟨Config.P, ⟨2, 0, 0, 0⟩, ⟨1, 0, 0, 0⟩, 3, 5, 7, 0⟩
def setTW : Params :=
  ⟨Config.P, ⟨0x1111111111111111, 0x2222222222222222, 0x3333333333333333, 0xf444444444444444⟩,
    ⟨0x0123456789abcdef, 0, 0xffffffffffffffff, 0x8000000000000000⟩, 0x0123456789abcdeffedcba9876543211,
    0x80000000000000010000000000000003, 0xfffffffffffffffffffffffffffffff1, 0⟩
def setTR : Params := ⟨Config.P, top, top, 0xffffffffffffffffffffffffffffffff, 0x00000000000000010000000000000000, 2, 0⟩

/-! ### WellFormed refuses each ill-formed term -/

theorem test_rotl_amount_0_refused : (Instr.rotl128 0).wellFormed = false := by decide
theorem test_rotl_amount_128_refused : (Instr.rotl128 128).wellFormed = false := by decide
theorem test_rotl_amounts_accepted : (Instr.rotl128 1).wellFormed ∧ (Instr.rotl128 127).wellFormed := by decide
theorem test_xshr_amount_128_refused : (Instr.xshr128 128).wellFormed = false := by decide
theorem test_xshr_amounts_accepted : (Instr.xshr128 0).wellFormed ∧ (Instr.xshr128 127).wellFormed := by decide

/-! ### Decoding: the words of 30_encoding.md R75, field by field from R66 -/

theorem test_decode_nop : decode 0b00000000_0000_0000_0000_0000_00000000 0 = .ok .nop := by decide
theorem test_decode_wrw : decode 0b00000001_0010_0000_0000_0011_00000000 0x123 = .ok (.wrw .w2 .i3 0x123) := by decide
theorem test_decode_rdw : decode 0b00000010_0000_0110_0000_0000_00000000 0 = .ok (.rdw .p .i0) := by decide
theorem test_decode_wrx : decode 0b00000011_0000_0000_0000_0001_00000000 1 = .ok (.wrx .hi 1) := by decide
theorem test_decode_rdx : decode 0b00000100_0000_0000_0000_0000_00000000 0 = .ok (.rdx .lo) := by decide
theorem test_decode_rds : decode 0b00000101_0000_0000_0000_0001_00000000 0 = .ok (.rds .pos) := by decide
theorem test_decode_add256 : decode 0b00010000_0000_0001_0000_0000_00000000 0 = .ok (.add256 .w0 (.reg .w1)) := by decide
theorem test_decode_sub256 : decode 0b00010001_0011_0110_0000_0000_00000000 0 = .ok (.sub256 .w3 .p) := by decide
theorem test_decode_cmp256 : decode 0b00010010_0000_0000_0110_0000_00000000 0 = .ok (.cmp256 (.reg .w0) .p) := by decide
theorem test_decode_red256 : decode 0b00010011_0001_0000_0000_0000_00000000 0 = .ok (.red256 .w1) := by decide
theorem test_decode_muls256 : decode 0b00010100_0001_0100_0000_0000_00000000 0x61 = .ok (.muls256 .w1 .k 0x61) := by decide
theorem test_decode_mulw256 :
    decode 0b00010101_0010_0000_0001_0000_00000000 0 = .ok (.mulw256 .w2 (.reg .w0) (.reg .w1)) := by decide
theorem test_decode_xor256 : decode 0b00010110_0001_0101_0000_0000_00000000 0 = .ok (.xor256 .w1 .r) := by decide
theorem test_decode_init128 : decode 0b00100000_0000_0000_0000_0000_00000000 0 = .ok .init128 := by decide
theorem test_decode_foldb : decode 0b00100001_0000_0000_0000_0000_01100001 0 = .ok (.foldb 0x61) := by decide
theorem test_decode_lenbind : decode 0b00100010_0000_0000_0000_0000_00000000 0 = .ok .lenbind := by decide
theorem test_decode_rotl128 : decode 0b00100011_0000_0000_0000_0000_00001101 0 = .ok (.rotl128 13) := by decide
theorem test_decode_mulk128 : decode 0b00100100_0000_0000_0000_0010_00000000 0 = .ok (.mulk128 .k2) := by decide
theorem test_decode_hlmix128 : decode 0b00100101_0000_0000_0000_0000_00000000 0 = .ok .hlmix128 := by decide
theorem test_decode_xshr128 : decode 0b00100110_0000_0000_0000_0000_01000011 0 = .ok (.xshr128 67) := by decide
theorem test_decode_mix128 : decode 0b00100111_0000_0000_0000_0000_00000000 0 = .ok .mix128 := by decide
theorem test_decode_init256 : decode 0b00110000_0000_0000_0000_0000_00000000 0 = .ok .init256 := by decide
theorem test_decode_absorb256 : decode 0b00110001_0000_0000_0000_0000_01100001 0 = .ok (.absorb256 0x61) := by decide

/-- The encoder writes the words of R75. -/
theorem test_encode : encode (.wrw .w2 .i3 0x123) = (0x01200300, 0x123) ∧ encode (.mulw256 .w2 (.reg .w0) (.reg .w1)) =
    (0x15201000, 0) ∧ encode (.xshr128 67) = (0x26000043, 0) := by decide

/-- The illegal words of 95_test_vectors.md section 7, by code. -/
theorem test_reserved_opcodes : [0xff123456, 0x06000000, 0x17000000, 0x28000000, 0x32000000].map cause =
    List.replicate 5 (some .opcode) := by decide
theorem test_reserved_selects : [0x01400000, 0x01400400, 0x02070000, 0x10470000, 0x10400000, 0x12070000, 0x13600000,
    0x15207000].map cause = List.replicate 8 (some .regsel) := by decide
theorem test_reserved_indices : [0x01200400, 0x02000400, 0x03000200, 0x04000200, 0x05000400, 0x24000000, 0x24000400].map
    cause = List.replicate 7 (some .lsel) := by decide
theorem test_reserved_amounts : [0x23000000, 0x23000080, 0x230000ff, 0x23000100, 0x26000080].map cause =
    List.replicate 5 (some .imm) := by decide
theorem test_nonzero_unused : [0x00000001, 0x01210000, 0x10010001, 0x10011000, 0x12100000, 0x13010000, 0x20000001,
    0x21000161, 0x2300010d, 0x24000101, 0x27100000, 0x31100061].map cause = List.replicate 12 (some .mbz) := by decide

/-- The mask of each row of R71 covers the opcode and exactly its unused fields, and the match is the opcode alone. -/
theorem test_masks_follow_field_use : ∀ r ∈ encodingTable,
    r.mask = (Fields.mk 0xff (if r.rd = .unused then 0xf else 0) (if r.ra = .unused then 0xf else 0)
      (if r.rb = .unused then 0xf else 0) (if r.lsel = .unused then 0xf else 0)
      (if r.imm8 = .unused then 0xff else 0)).word ∧
    r.pattern = (Fields.mk (BitVec.ofNat 8 r.opcode) 0 0 0 0 0).word := by decide

/-- No two rows of R71 share an opcode. -/
theorem test_opcodes_distinct : (encodingTable.map EncRow.opcode).Nodup := by decide

theorem test_table_word : decodeTableWord 32 0x26000043 = some (.xshr128 67) ∧
    decodeTableWord 96 0x6114140000 = some (.muls256 .w1 .k 0x61) ∧
    decodeTableWord 32 0x14140000 = some (.muls256 .w1 .k 0) ∧
    decodeTableWord 32 0x23000000 = none := by decide

/-! ### System commands (95_test_vectors.md sections 7 and 8) -/

theorem test_nop : seen (exec .nop State.reset) State.responses = some [⟨.ok, 0⟩] := by decide
theorem test_wrw_one_limb : seen (exec (.wrw .w1 .i2 9) (withW top ⟨1, 2, 3, 4⟩)) State.w1 = some ⟨1, 2, 9, 4⟩ := by decide
theorem test_rdw_p1 : seen (exec (.rdw .p .i1) State.reset) State.responses = some [⟨.ok, 0xfffffffffffffffe⟩] := by decide
/-- Program 4, first two lines. -/
theorem test_wrx : seen (exec (.wrx .lo 0x622525) (withX 0x55555555555555555555555555555555 0x77)) State.x =
      some 0x55555555555555550000000000622525 ∧
    seen (exec (.wrx .hi 3) (withX 0x55555555555555550000000000622525 0x77)) State.x =
      some 0x00000000000000030000000000622525 := by decide
/-- Program 1, the read-out. -/
theorem test_rdx : seen (exec (.rdx .hi) (withX 0x18b3840000c9c0c7163dda55aa3af499 3)) State.responses =
      some [⟨.ok, 0x18b3840000c9c0c7⟩] ∧
    seen (exec (.rdx .lo) (withX 0x18b3840000c9c0c7163dda55aa3af499 3)) State.responses =
      some [⟨.ok, 0x163dda55aa3af499⟩] := by decide
theorem test_rds_len : seen (exec (.rds .lenLo) (withX 0 3)) State.responses = some [⟨.ok, 3⟩] ∧
    seen (exec (.rds .lenHi) (withX 0 0x00000000000000050000000000000003)) State.responses = some [⟨.ok, 5⟩] := by decide
/-- Section 7, the sequence of the sticky error: CMP -1, an illegal amount, a reserved opcode, STATUS. -/
theorem test_status_sequence :
    seen (core.run 4 (({ State.reset with w0 := ⟨1, 0, 0, 0⟩, w1 := ⟨2, 0, 0, 0⟩ } : State).setPending
      [.command 0x12001000 0, .command 0x26000080 0, .command 0xff000000 0, .command 0x05000000 0])) State.responses =
    some [⟨.ok, 0xffffffffffffffff⟩, ⟨.err, 4⟩, ⟨.err, 1⟩, ⟨.ok, 0x47⟩] := by decide
/-- Section 7: STATUS after an illegal word that is the first fault. -/
theorem test_status_after_first_fault : answer 0xff123456 State.reset = some ([⟨.err, 1⟩], 0x14) ∧
    answer 0x00000001 State.reset = some ([⟨.err, 5⟩], 0x54) ∧ answer 0x02070000 State.reset = some ([⟨.err, 2⟩], 0x24) ∧
    answer 0x03000200 State.reset = some ([⟨.err, 3⟩], 0x34) ∧ answer 0x23000080 State.reset = some ([⟨.err, 4⟩], 0x44) := by
  decide

/-! ### Wide family (95_test_vectors.md section 3) -/

theorem test_add256_carries : seen (exec (.add256 .w0 (.reg .w1)) (withW ⟨0xffffffffffffffff, 0xffffffffffffffff,
    0xffffffffffffffff, 0⟩ ⟨1, 0, 0, 0⟩)) State.w0 = some ⟨0, 0, 0, 1⟩ := by decide
theorem test_add256_same_register : seen (exec (.add256 .w0 (.reg .w0)) (withW Config.P top)) State.w0 =
    some ⟨0xfffff85ffffffffe, 0xfffffffffffffffd, 0xffffffffffffffff, 0xffffffffffffffff⟩ := by decide
theorem test_sub256_borrows : seen (exec (.sub256 .w0 (.reg .w1)) (withW ⟨0, 0, 0, 1⟩ ⟨1, 0, 0, 0⟩)) State.w0 =
    some ⟨0xffffffffffffffff, 0xffffffffffffffff, 0xffffffffffffffff, 0⟩ := by decide
theorem test_sub256_wraps : seen (exec (.sub256 .w1 .p) (withW top ⟨5, 0, 0, 0⟩)) State.w1 =
    some ⟨0x3d000000006, 1, 0, 0⟩ := by decide
theorem test_cmp256_limb3_decides : seen (exec (.cmp256 (.reg .w0) (.reg .w1)) (withW ⟨0xffffffffffffffff,
    0xffffffffffffffff, 0xffffffffffffffff, 0⟩ ⟨0, 0, 0, 1⟩)) (fun t => (t.cmp, t.responses)) =
    some (0b11, [⟨.ok, 0xffffffffffffffff⟩]) := by decide
theorem test_cmp256_greater_and_equal :
    seen (exec (.cmp256 (.reg .w0) .p) (withW top top)) (fun t => (t.cmp, t.responses)) = some (0b01, [⟨.ok, 1⟩]) ∧
    seen (exec (.cmp256 .p .p) (withW top top)) (fun t => (t.cmp, t.responses)) = some (0b00, [⟨.ok, 0⟩]) := by decide
theorem test_red256_max : seen (exec (.red256 .w1) (withW top top)) State.w1 = some ⟨0x3d000000000, 1, 0, 0⟩ := by decide
theorem test_red256_edges : reduceMod setTS Config.P = Wide.zero ∧
    reduceMod setTS ⟨0xfffffc2ffffffffe, 0xfffffffffffffffe, 0xffffffffffffffff, 0xffffffffffffffff⟩ =
      ⟨0xfffffc2ffffffffe, 0xfffffffffffffffe, 0xffffffffffffffff, 0xffffffffffffffff⟩ := by decide
theorem test_muls256_shift : seen (exec (.muls256 .w0 (.reg .w1) 0x8000000000000000) (withW top ⟨1, 2, 3, 4⟩)) State.w0 =
    some ⟨0x8000000000000000, 0, 0x8000000000000001, 1⟩ := by decide
theorem test_muls256_carry_chain : muls256 ⟨0xffffffffffffffff, 0, 0xffffffffffffffff, 0⟩ 0xffffffffffffffff =
    ⟨1, 0xfffffffffffffffe, 1, 0xfffffffffffffffe⟩ := by decide
theorem test_mulw256_p_squared : seen (exec (.mulw256 .w0 .p (.reg .w1)) (withW top Config.P)) State.w0 =
    some ⟨0x7a000000001, 0x7a0000e8902, 1, 0⟩ := by decide
theorem test_mulw256_general : mulw256 ⟨0x123456789abcdef, 0xfedcba9876543210, 0xf1e2d3c4b5a6978, 0x8796a5b4c3d2e1f0⟩
    ⟨0xdeadbeefcafebabe, 0x123456789abcdef, 0, 1⟩ =
    ⟨0x7eb689f4ea447d62, 0x803ef502ca620d1e, 0x643b8a7c90ad154c, 0xac74c31126c86dca⟩ := by decide
theorem test_xor256 : seen (exec (.xor256 .w0 (.reg .w1)) (withW ⟨0x0f, 1, 2, 4⟩ ⟨0xff, 1, 0, 8⟩)) State.w0 =
    some ⟨0xf0, 0, 2, 12⟩ := by decide

/-! ### The 128-bit mixer (95_test_vectors.md sections 4 and 5) -/

theorem test_init128_clears_len : seen (exec .init128 (withX 5 6)) State.len = some 0 := by decide
theorem test_foldb : seen (exec (.foldb 0x80) (withX 0x0123456789abcdef0011223344556677 2)) (fun t => (t.x, t.len)) =
    some (0x2468acf13579bcef1133557799bbddf7, 3) := by decide
theorem test_foldb_wraps : seen (exec (.foldb 0xff) (withX 0xffffffffffffffffffffffffffffffff
    0xffffffffffffffffffffffffffffffff)) (fun t => (t.x, t.len)) = some (0xfffffffffffffffffffffffffffffffe, 0) := by decide
theorem test_lenbind : seen (exec .lenbind (withX 0x622526 3)) State.x = some 0x00000000000000030000000000622525 := by decide
theorem test_lenbind_long : seen (exec .lenbind (withX 0 0x00000000000000010000000000000005)) State.x =
    some 0x00000000000000040000000000000005 := by decide
theorem test_rotl128 : seen (exec (.rotl128 13) (withX 0x0123456789abcdef0011223344556677 0)) State.x =
    some 0x68acf13579bde0022446688aaccee024 := by decide
theorem test_rotl128_127 : seen (exec (.rotl128 127) (withX 0x0123456789abcdef0011223344556677 0)) State.x =
    some 0x8091a2b3c4d5e6f780089119a22ab33b := by decide
theorem test_mulk128 : mulk128 setTW .k1 0x0123456789abcdef0011223344556677 = 0x2fdcce037d3b3d82f38e5ea8b0bb0be7 ∧
    mulk128 setTW .k2 0x0123456789abcdef0011223344556677 = 0x837af269e158d04400336699cd003365 ∧
    mulk128 setTW .k3 0x0123456789abcdef0011223344556677 = 0xeeeeeeeeeeeeeefefefefefefefeff07 := by decide
theorem test_hlmix128 : seen (exec .hlmix128 (withX 0x0123456789abcdef0011223344556677 0)) State.x =
    some 0x001122334455667701326754cdfeab98 := by decide
theorem test_xshr128 : seen (exec (.xshr128 67) (withX 0x0123456789abcdef0011223344556677 0)) State.x =
    some 0x0123456789abcdef00354a9fb5601fca := by decide
theorem test_xshr128_127 : seen (exec (.xshr128 127) (withX 0x80000000000000000000000000000000 0)) State.x =
    some 0x80000000000000000000000000000001 := by decide
theorem test_mix128 : mix128 setTW 0x0123456789abcdef0011223344556677 = 0x9deea33a3aee784e1c03b43e273a6ef0 ∧
    mix128 setTR 0xffffffffffffffffffffffffffffffff = 0x00000800000000440000000020000000 := by decide
theorem test_hash128 : hash128 setTS [0x61, 0x62, 0x63] = 0x18b3840000c9c0c7163dda55aa3af499 ∧
    hash128 setTW [0xff, 0x80] = 0xdf03a8ea8d4f2ce7c119fbc6f965713c := by decide
/-- S3: the length binding tells a byte extension apart. -/
theorem test_fold_extension : foldString setTS [] = 0 ∧ foldString setTS [0] = 0x00000000000000010000000000000001 := by decide

/-! ### The 256-bit mixer (95_test_vectors.md section 6) -/

theorem test_init256 : seen (exec .init256 { withW top top with pos := 7 }) (fun t => (t.w0, t.w1, t.pos)) =
    some (Wide.zero, top, 0) := by decide
theorem test_absorb256_pos : seen (exec (.absorb256 1) { State.reset with pos := 0xffffffffffffffff }) State.pos = some 0 := by
  decide
/-- The TW run, third byte: the carry out of limb 3 is dropped. -/
theorem test_absorb256_carry_dropped : absorb256 setTW ⟨0x8686868797979789, 0x11111111111110fd, 0x666666666666667a,
    0x922222222222220f⟩ 2 0x63 = ⟨⟨0x54761032dcfe98df, 0xaaaaaaaaaaaaaa83, 0x27, 0x755555555555552f⟩, 3,
    ⟨0xcdef89ab45670156, 0x9999999999999985, 0x99999999999999ad, 0xe33333333333331f⟩⟩ := by decide
theorem test_absorb256_scalar_wraps : absorb256 setTS Wide.zero 0x100000000000000 0xff =
    ⟨⟨0xfe000000000001ff, 1, 0, 0⟩, 0x100000000000001, ⟨0xfe000000000001ff, 1, 0, 0⟩⟩ := by decide
theorem test_hash256 : hash256 setTR [0x61, 0x62, 0x63] = ⟨0x24b, 0, 0, 0⟩ ∧ hash256 setTS [0xff, 0x80] = ⟨0x400, 0, 0, 0⟩ := by
  decide

/-! ### The host side -/

theorem test_hex128 : hex128 0x18b3840000c9c0c7163dda55aa3af499 = "18b3840000c9c0c7163dda55aa3af499".toList := by decide
theorem test_hex256 : hex256 ⟨0x54761032dcfe98df, 0xaaaaaaaaaaaaaa83, 0x27, 0x755555555555552f⟩ =
    "755555555555552f0000000000000027aaaaaaaaaaaaaa8354761032dcfe98df".toList := by decide
/-- R183: one line on success, status 1 and no message without an argument. -/
theorem test_tool256 : (tool256 setTR [[0x61, 0x62, 0x63]]).out =
      asciiBytes "000000000000000000000000000000000000000000000000000000000000024b".toList ++ [0x0a] ∧
    tool256 setTR [] = ⟨[], [], 1⟩ := by decide
theorem test_tool128_status : (tool128 setTS [asciiBytes "hash".toList, [0x61]]).exitStatus = 0 ∧
    (tool128 setTS [asciiBytes "hash".toList]).exitStatus = 1 ∧ (tool128 setTS []).exitStatus = 1 := by decide
/-- R75: texts of its examples. -/
theorem test_assembly : assembly (.wrw .w2 .i3 0x123) = "WRW W2.3, D=0x123" ∧ assembly (.rds .pos) = "RDS POS" ∧
    assembly (.mulw256 .w2 (.reg .w0) (.reg .w1)) = "MULW256 W2, W0, W1" ∧ assembly (.rotl128 13) = "ROTL128 #13" := by decide
/-- R75: its examples, read. -/
theorem test_assemble : ["WRW W2.3, D=0x0123", "RDW P.0", "WRX 1, D=0x1", "RDS LEN_HI", "CMP256 SUM, P", "MULW256 W2, W0, TERM",
      "FOLDB #0x61", "ABSORB256 #97", "MULK128 2", "MIX128"].map (fun t => assemble t.toList) =
    [some (.wrw .w2 .i3 0x123), some (.rdw .p .i0), some (.wrx .hi 1), some (.rds .lenHi), some (.cmp256 (.reg .w0) .p),
      some (.mulw256 .w2 (.reg .w0) (.reg .w1)), some (.foldb 0x61), some (.absorb256 0x61), some (.mulk128 .k2),
      some .mix128] := by decide
theorem test_assemble_refuses : ["WRW K.0, D=1", "FOLDB #256", "RDW P", "MULK128 0", "ADD256 W0"].map
    (fun t => assemble t.toList) = List.replicate 5 none := by decide
/-- R76: the pseudo-instructions as words. -/
theorem test_pseudo : issue final256 = [.command 0x13000000 0] ∧
    issue (hash128Commands [0x61]) = [.command 0x20000000 0, .command 0x21000061 0, .command 0x22000000 0,
      .command 0x27000000 0] ∧
    issue (ldx 0x00000000000000030000000000622525) = [.command 0x03000000 0x622525, .command 0x03000100 3] := by decide

/-! ### The step -/

theorem test_step_runs_fetched_word :
    seen (step (State.reset.withFetchWord 32 0x21000061)) (fun t => (t.x, t.len, t.pending)) = some (0x61, 1, []) := by decide
theorem test_step_takes_illegal_word :
    seen (step (State.reset.withFetchWord 32 0x23000000)) (fun t => (t.err, t.ecode, t.responses)) =
      some (true, 4, [⟨.err, 4⟩]) := by decide

/-! ### Witnesses: each statement with hypotheses has states and operands that meet them -/

theorem witness_NopOnlyAnswers : (fieldsOf 0x00000001).opcode = 0x00 ∧ (0x00000001 : BitVec 32) ≠ 0 := by decide
theorem witness_WrwWritesOneLimb :
    ((fieldsOf 0x01400000).opcode = 0x01 ∧ 3 < (fieldsOf 0x01400000).rd.toNat) ∧
    ((fieldsOf 0x01300400).opcode = 0x01 ∧ (fieldsOf 0x01300400).rd.toNat ≤ 3 ∧ 3 < (fieldsOf 0x01300400).lsel.toNat) ∧
    LimbIdx.i0 ≠ .i3 := by decide
theorem witness_RdwReadsOneLimb :
    ((fieldsOf 0x02070000).opcode = 0x02 ∧ 6 < (fieldsOf 0x02070000).ra.toNat) ∧
    ((fieldsOf 0x02060400).opcode = 0x02 ∧ (fieldsOf 0x02060400).ra.toNat ≤ 6 ∧ 3 < (fieldsOf 0x02060400).lsel.toNat) := by
  decide
theorem witness_WrxWritesOneHalf : (fieldsOf 0x03000200).opcode = 0x03 ∧ 1 < (fieldsOf 0x03000200).lsel.toNat := by decide
theorem witness_RdxReadsOneHalf : (fieldsOf 0x04000f00).opcode = 0x04 ∧ 1 < (fieldsOf 0x04000f00).lsel.toNat := by decide
theorem witness_RdsReadsStatusAndCounters : (fieldsOf 0x05000400).opcode = 0x05 ∧ 3 < (fieldsOf 0x05000400).lsel.toNat := by
  decide
/-- One limb apart each way, and equal. -/
theorem witness_Cmp256ComparesValues :
    ((withW Config.P top).readSrc (.reg .w0)).val < ((withW Config.P top).readSrc (.reg .w1)).val ∧
    ((withW Config.P top).readSrc (.reg .w0)).val = ((withW Config.P top).readSrc .p).val ∧
    ((withW Config.P top).readSrc .p).val < ((withW Config.P top).readSrc (.reg .w1)).val := by decide
theorem witness_Red256LeavesRemainder : (fieldsOf 0x13400000).opcode = 0x13 ∧ 3 < (fieldsOf 0x13400000).rd.toNat := by decide
theorem witness_ReductionLoopIsRemainder : 0 < Config.P.val ∧ top.val / Config.P.val ≤ 1 := by decide
theorem witness_LenbindBindsLength : (withX 1 0x0000000000000000ffffffffffffffff).len.toNat < 2 ^ 64 := by decide
theorem witness_Rotl128RotatesLeft : (1 ≤ (1 : Byte).toNat ∧ (1 : Byte).toNat ≤ 127) ∧
    (1 ≤ (127 : Byte).toNat ∧ (127 : Byte).toNat ≤ 127) ∧
    ((fieldsOf 0x23000000).opcode = 0x23 ∧ (fieldsOf 0x23000000).imm8.toNat = 0) ∧
    ((fieldsOf 0x23000080).opcode = 0x23 ∧ 128 ≤ (fieldsOf 0x23000080).imm8.toNat) ∧
    (0 : Byte).toNat = 0 ∧ 128 ≤ (128 : Byte).toNat ∧ 128 ≤ (255 : Byte).toNat := by decide
theorem witness_Mulk128MultipliesByConstant :
    ((fieldsOf 0x24000000).opcode = 0x24 ∧ (fieldsOf 0x24000000).lsel.toNat = 0) ∧
    ((fieldsOf 0x24000400).opcode = 0x24 ∧ 3 < (fieldsOf 0x24000400).lsel.toNat) := by decide
theorem witness_Xshr128XorsShifted : (0 : Byte).toNat ≤ 127 ∧ (127 : Byte).toNat ≤ 127 ∧ 64 ≤ (64 : Byte).toNat ∧
    ((fieldsOf 0x26000080).opcode = 0x26 ∧ 128 ≤ (fieldsOf 0x26000080).imm8.toNat) ∧ 128 ≤ (128 : Byte).toNat := by decide
theorem witness_FoldStringIsFoldCommands : (List.replicate 15 (255 : Byte)).length ≤ 15 := by decide
theorem witness_Hash128LeavesDigest :
    (State.reset.setPending (issue (hash128Commands [0x61]) ++ [.command 0xff000000 0])).pending =
      issue (hash128Commands [0x61]) ++ [.command 0xff000000 0] := by decide
theorem witness_Hash256LeavesDigest :
    (State.reset.setPending (issue (hash256Commands [0x61]) ++ [.command 0xff000000 0])).pending =
      issue (hash256Commands [0x61]) ++ [.command 0xff000000 0] ∧
    (State.reset.setPending (issue (hash256Commands []) ++ [])).pending = issue (hash256Commands []) ++ [] := by decide
theorem witness_DroppedCarryIsLost : setTW.P = Config.P ∧ 2 ^ 256 ≤ (⟨0x8686868797979789, 0x11111111111110fd,
      0x666666666666667a, 0x922222222222220f⟩ : Wide).val + (absorb256 setTW ⟨0x8686868797979789, 0x11111111111110fd,
      0x666666666666667a, 0x922222222222220f⟩ 2 0x63).term.val := by decide
theorem witness_Final256IsRedundant : (∃ t, exec .init256 State.reset = .next t) ∧
    (∃ t, exec (.absorb256 0x61) State.reset = .next t) ∧
    Config.P.val ≤ ((withW Config.P top).wide .w0).val := ⟨⟨_, rfl⟩, ⟨_, rfl⟩, by decide⟩
theorem witness_DigestBelowModulus : setTW.P = Config.P := rfl
theorem witness_DecodeReadsEncodedCommand : (Instr.rotl128 127).wellFormed = true ∧
    (Instr.muls256 .w1 .k 0xffffffffffffffff).wellFormed = true := by decide
theorem witness_DecodedWordIsEncoding : decode 0x14140000 0x61 = .ok (.muls256 .w1 .k 0x61) ∧
    (Instr.muls256 .w1 .k 0x61).usesData = true := by decide
theorem witness_ReservedOpcodeIsIllegal : (fieldsOf 0x06000000).opcode.toNat = 0x06 ∧
    (fieldsOf 0x31000000).opcode.toNat = 0x31 ∧ (fieldsOf 0xff000000).opcode.toNat = 0xff := by decide
theorem witness_DataInIsNeverChecked : decode 0x23000000 5 = .error .imm ∧ decode 0x27000000 5 = .ok .mix128 ∧
    Instr.mix128.usesData = false ∧ decode 0x03000100 5 = .ok (.wrx .hi 5) ∧ (Instr.wrx .hi 5).usesData = true := by decide
theorem witness_IllegalWordIsTaken :
    (State.reset.setPending [.command 0x23000000 5, .command 0 0]).pending = [.command 0x23000000 5, .command 0 0] ∧
    decode 0x23000000 5 = .error .imm := by decide
theorem witness_StepRunsDecodedCommand :
    (State.reset.setPending [.command 0x21000061 0]).pending = [.command 0x21000061 0] ∧
    decode 0x21000061 0 = .ok (.foldb 0x61) := by decide
theorem witness_ResetDrawsRegisters :
    (State.reset.setPending [.reset ⟨top, top, top, top, 1, 2, 3⟩]).pending = [.reset ⟨top, top, top, top, 1, 2, 3⟩] := by
  decide
theorem witness_EveryStepHasNextState : (withX 5 6).pending = [] ∧
    (State.reset.setPending [.reset ⟨top, top, top, top, 1, 2, 3⟩]).pending.tail = [] := by decide
theorem witness_StepKeepsStatusLegal :
    StatusLegal { State.reset with cmp := 0b11, err := true, ecode := 4 } ∧
    ∃ t, step { State.reset with cmp := 0b11, err := true, ecode := 4, pending := [.command 0xff000000 0] } = .next t :=
  ⟨by unfold StatusLegal; decide, _, rfl⟩
theorem witness_FirstCauseStaysUntilReset :
    ({ State.reset with err := true, ecode := 4, pending := [.command 0xff000000 0] } : State).err = true ∧
    (∀ a ∈ ({ State.reset with err := true, ecode := 4, pending := [.command 0xff000000 0] } : State).pending,
      a.isReset = false) ∧
    (∃ t, core.run 1 { State.reset with err := true, ecode := 4, pending := [.command 0xff000000 0] } = .next t) ∧
    ∃ t, exec (.foldb 0x61) { State.reset with err := true, ecode := 4 } = .next t :=
  ⟨rfl, by decide, ⟨_, rfl⟩, ⟨_, rfl⟩⟩
theorem witness_ErrIsARecordNotAMode : (Instr.xshr128 127).wellFormed = true ∧ Instr.rds .pos ≠ .rds .status := by decide
theorem witness_CmpIsWrittenByCmp256Alone : (Instr.red256 .w0).isCmp256 = false ∧
    ∃ t, exec (.red256 .w0) (withW top top) = .next t := ⟨rfl, _, rfl⟩
theorem witness_CountersAreWrittenByTheirCommands : (∃ t, exec (.absorb256 1) State.reset = .next t) ∧
    Instr.absorb256 1 ≠ .init128 ∧ (∀ b, Instr.absorb256 1 ≠ .foldb b) ∧ Instr.lenbind ≠ .init256 ∧
    ∀ b, Instr.lenbind ≠ .absorb256 b := ⟨⟨_, rfl⟩, by decide, by decide, by decide, by decide⟩
theorem witness_FamiliesLeaveOthersAlone : (∃ t, exec (.add256 .w2 .k) State.reset = .next t) ∧
    (Instr.add256 .w2 .k).inWide256 = true ∧ Instr.mix128.inMixer128 = true ∧ (Instr.absorb256 1).inMixer256 = true ∧
    WReg.w3 ∉ (Instr.add256 .w2 .k).wideDests := ⟨⟨_, rfl⟩, by decide, by decide, by decide, by decide⟩
theorem witness_HexText128Digits : (hex128 0xf)[31 - 0]? = some 'f' ∧ (hex128 0xf)[31 - 31]? = some '0' := by decide
theorem witness_HexText256IsNumeral : (hex256 ⟨0xf, 0, 0, 0⟩)[63 - 0]? = some 'f' ∧ (hex256 ⟨0xf, 0, 0, 0⟩)[63 - 63]? = some '0' := by
  decide
theorem witness_PipelinesCommute : (Instr.rotl128 1).inMixer128 = true ∧ (Instr.rotl128 1).wellFormed = true ∧
    (Instr.absorb256 0x61).inMixer256 = true := by decide

/-- Between the commands of the pipeline: an illegal word, a command of the other pipeline, a NOP, a read. -/
theorem witness_Digest128IndependentOfHistory :
    (∀ a ∈ ([.command 0xff000000 0, .command 0x20000000 0, .command 0x31000061 0, .command 0x21000061 0, .command 0 0,
      .command 0x22000000 0, .command 0x27000000 0, .command 0x04000000 0] : List HostAction), a.isReset = false) ∧
    ([.command 0xff000000 0, .command 0x20000000 0, .command 0x31000061 0, .command 0x21000061 0, .command 0 0,
      .command 0x22000000 0, .command 0x27000000 0, .command 0x04000000 0] : List HostAction).filterMap HostAction.mixer128 =
      hash128Commands [0x61] := by decide
theorem witness_Digest256IndependentOfHistory :
    (∀ a ∈ ([.command 0x10400000 0, .command 0x30000000 0, .command 0x21000061 0, .command 0x31000061 0, .command 0 0,
      .command 0x13000000 0, .command 0x02000300 0] : List HostAction), a.isReset = false) ∧
    ([.command 0x10400000 0, .command 0x30000000 0, .command 0x21000061 0, .command 0x31000061 0, .command 0 0,
      .command 0x13000000 0, .command 0x02000300 0] : List HostAction).filterMap HostAction.mixer256 =
      hash256Commands [0x61] := by decide

end Sys2Proof.Tests
end

section
/-! What a command can do to STATUS, said once; that every step keeps STATUS legal; and the facts about the modulus. -/

namespace Sys2Proof.Machine

open Sys2Proof

/-! ### What a command does to STATUS -/

/-- The compare result is one of the three codes of 00_scope.md R12. -/
theorem cmpBits_ne_reserved (c : CmpResult) : cmpBits c ≠ 0b10 := by cases c <;> decide

theorem causeCode_ne_zero (c : ECode) : causeCode c ≠ 0 := by cases c <;> decide

theorem causeCode_le_five (c : ECode) : (causeCode c).toNat ≤ 5 := by cases c <;> decide

/-- What an executed command can do to STATUS (10_state.md R34, 60_exceptions.md R203): nothing, or a CMP256 writes CMP, or
the amount of a shift that no legal word encodes raises EC_IMM. -/
theorem exec_status_cases {i : Instr} {s t : State} (h : exec i s = .next t) :
    KeepsStatus s t ∨
    (i.isCmp256 = true ∧ (∃ c, t.cmp = cmpBits c) ∧ t.err = s.err ∧ t.ecode = s.ecode) ∨
    (i.wellFormed = false ∧ t = s.raiseIllegal .imm) := by
  cases i with
  | cmp256 ra rb =>
    cases h
    exact .inr (.inl ⟨rfl, ⟨_, rfl⟩, rfl, rfl⟩)
  | rotl128 amount =>
    simp only [exec, execRotl128] at h
    split at h
    · cases h
      exact .inl (by simp [KeepsStatus])
    · next hbad =>
      cases h
      exact .inr (.inr ⟨by simpa [Instr.wellFormed] using hbad, rfl⟩)
  | xshr128 amount =>
    simp only [exec, execXshr128] at h
    split at h
    · cases h
      exact .inl (by simp [KeepsStatus])
    · next hbad =>
      cases h
      exact .inr (.inr ⟨by simpa [Instr.wellFormed] using hbad, rfl⟩)
  | nop | rdw | rdx | rds | wrw | wrx | add256 | sub256 | red256 | muls256 | mulw256 | xor256 | init128 | foldb | lenbind
  | mulk128 | hlmix128 | mix128 | init256 | absorb256 =>
    cases h
    exact .inl (by simp [KeepsStatus])

/-! ### The invariant of STATUS -/

theorem StatusLegal.of_keepsStatus {s t : State} (hs : StatusLegal s) (h : KeepsStatus s t) : StatusLegal t := by
  obtain ⟨hcmp, herr, hecode⟩ := h
  simpa only [StatusLegal, hcmp, herr, hecode] using hs

/-- Writing CMP with a compare result keeps STATUS legal (00_scope.md R12). -/
theorem StatusLegal.of_cmpBits {s t : State} {c : CmpResult} (hs : StatusLegal s) (hcmp : t.cmp = cmpBits c)
    (herr : t.err = s.err) (hecode : t.ecode = s.ecode) : StatusLegal t := by
  obtain ⟨-, hiff, hle⟩ := hs
  refine ⟨?_, ?_, ?_⟩
  · rw [hcmp]
    exact cmpBits_ne_reserved c
  · rw [herr, hecode]
    exact hiff
  · rw [hecode]
    exact hle

/-- Taking `IllegalCommand` keeps STATUS legal: the first cause is one of 1..5 and sets ERR, a later one is not recorded
(60_exceptions.md R202, R203). -/
theorem StatusLegal.raiseIllegal {s : State} (hs : StatusLegal s) (c : ECode) : StatusLegal (s.raiseIllegal c) := by
  obtain ⟨hcmp, hiff, hle⟩ := hs
  refine ⟨by rwa [State.raiseIllegal_cmp], ?_, ?_⟩ <;> rw [State.raiseIllegal_ecode]
  · rw [State.raiseIllegal_err]
    split
    · next herr => exact iff_of_true rfl (hiff.mp herr)
    · exact iff_of_true rfl (causeCode_ne_zero c)
  · split
    · exact hle
    · exact causeCode_le_five c

/-- A reset leaves STATUS 0, whatever it draws (10_state.md R37). -/
theorem statusLegal_afterReset (s : State) (draw : Draw) : StatusLegal (s.afterReset draw) := by
  simp [StatusLegal]

/-- Every command keeps STATUS legal, decoded or not. -/
theorem StatusLegal.of_exec {i : Instr} {s t : State} (hs : StatusLegal s) (h : exec i s = .next t) : StatusLegal t := by
  obtain hkeep | ⟨-, ⟨c, hcmp⟩, herr, hecode⟩ | ⟨-, rfl⟩ := exec_status_cases h
  · exact hs.of_keepsStatus hkeep
  · exact hs.of_cmpBits hcmp herr hecode
  · exact hs.raiseIllegal .imm

/-- Settles O46: each of the four things a step can do keeps STATUS legal. -/
theorem stepKeepsStatusLegal : Obligations.StepKeepsStatusLegal := by
  intro s t hs h
  have taken : ∀ rest, StatusLegal (s.setPending rest) := fun _ => hs.of_keepsStatus ⟨rfl, rfl, rfl⟩
  obtain ⟨-, rfl⟩ | ⟨draw, rest, -, rfl⟩ | ⟨w, d, rest, i, -, -, hexec⟩ | ⟨w, d, rest, c, -, -, rfl⟩ := step_cases h
  · exact hs
  · exact statusLegal_afterReset _ draw
  · exact (taken rest).of_exec hexec
  · exact (taken rest).raiseIllegal c

end Sys2Proof.Machine

namespace Sys2Proof

/-! ### The modulus -/

/-- The four limbs of `P` make the literal of 00_scope.md R9. -/
theorem Config.P_val : Config.P.val = 0xfffffffffffffffffffffffffffffffffffffffffffffffefffffc2fffffffff := by decide

/-- `P` has the factor 239 (00_scope.md R9). -/
theorem Config.dvd_P_val : 239 ∣ Config.P.val := by
  rw [Config.P_val]
  decide

theorem Config.not_prime_P_val : ¬ Nat.Prime Config.P.val :=
  Nat.not_prime_of_dvd_of_lt Config.dvd_P_val (by decide) (by rw [Config.P_val]; decide)

/-- Settles O12: the facts of 00_scope.md R9, each computed from the literal of `P`. -/
theorem modulusFacts : Obligations.ModulusFacts := by
  refine ⟨Config.P_val, rfl, rfl, rfl, rfl, ?bit255, ?complement, ?complementAsSum, ?double, by rw [Config.P_val],
    Nat.mod_eq_zero_of_dvd Config.dvd_P_val, Config.not_prime_P_val⟩
  all_goals
    rw [Config.P_val]
    decide

end Sys2Proof
end

section
/-! The registers of 10_state.md: who writes STATUS.CMP and the two counters, and what a reset leaves. -/

namespace Sys2Proof.Machine

open Sys2Proof

/-! ### Who writes CMP and the counters -/

/-- Settles O50: of the three things a command can do to STATUS, only that of CMP256 changes CMP. -/
theorem cmpIsWrittenByCmp256Alone : Obligations.CmpIsWrittenByCmp256Alone := by
  intro i s t hcmp256 h
  obtain ⟨hcmp, -, -⟩ | ⟨hwrites, -⟩ | ⟨-, rfl⟩ := exec_status_cases h
  · exact hcmp
  · exact absurd hwrites (Bool.eq_false_iff.mp hcmp256)
  · exact s.raiseIllegal_cmp .imm

/-- What an executed command can do to LEN and POS (10_state.md R30, R31): keep both, or, as one of four commands, clear or
count one of them and keep the other. -/
theorem exec_counter_cases {i : Instr} {s t : State} (h : exec i s = .next t) :
    (t.len = s.len ∧ t.pos = s.pos) ∨
    (i = .init128 ∧ t.len = 0 ∧ t.pos = s.pos) ∨
    (∃ b, i = .foldb b ∧ t.len = s.len + 1 ∧ t.pos = s.pos) ∨
    (i = .init256 ∧ t.len = s.len ∧ t.pos = 0) ∨
    (∃ b, i = .absorb256 b ∧ t.len = s.len ∧ t.pos = s.pos + 1) := by
  cases i with
  | init128 =>
    cases h
    exact .inr (.inl ⟨rfl, rfl, rfl⟩)
  | foldb b =>
    cases h
    exact .inr (.inr (.inl ⟨b, rfl, rfl, rfl⟩))
  | init256 =>
    cases h
    exact .inr (.inr (.inr (.inl ⟨rfl, rfl, rfl⟩)))
  | absorb256 b =>
    cases h
    exact .inr (.inr (.inr (.inr ⟨b, rfl, rfl, rfl⟩)))
  | rotl128 | xshr128 =>
    simp only [exec, execRotl128, execXshr128] at h
    split at h <;> cases h <;> exact .inl (by simp)
  | nop | rdw | rdx | rds | wrw | wrx | add256 | sub256 | cmp256 | red256 | muls256 | mulw256 | xor256 | lenbind | mulk128
  | hlmix128 | mix128 =>
    cases h
    exact .inl (by simp)

/-- Settles O51: in each of the five things a command can do to the counters, a counter it changes is its own. -/
theorem countersAreWrittenByTheirCommands : Obligations.CountersAreWrittenByTheirCommands := by
  intro i s t h
  obtain ⟨hlen, hpos⟩ | ⟨rfl, -, hpos⟩ | ⟨b, rfl, -, hpos⟩ | ⟨rfl, hlen, -⟩ | ⟨b, rfl, hlen, -⟩ := exec_counter_cases h
  · exact ⟨fun _ _ => hlen, fun _ _ => hpos⟩
  · exact ⟨fun hne _ => absurd rfl hne, fun _ _ => hpos⟩
  · exact ⟨fun _ hne => absurd rfl (hne b), fun _ _ => hpos⟩
  · exact ⟨fun _ _ => hlen, fun hne _ => absurd rfl hne⟩
  · exact ⟨fun _ _ => hlen, fun _ hne => absurd rfl (hne b)⟩

/-! ### What a reset leaves -/

/-- STATUS reads 0 when its three fields are 0: the bits between them are zero anyway (10_state.md R32). -/
theorem State.statusWord_eq_zero {s : State} (hcmp : s.cmp = 0) (herr : s.err = false) (hecode : s.ecode = 0) :
    s.statusWord = 0 := by
  rw [State.statusWord, hcmp, herr, hecode]
  decide

/-- A step that takes a reset from the port leaves what the reset leaves (70_reset_and_hazards.md R225). -/
theorem step_reset {s : State} {draw : Draw} {rest : List HostAction} (h : s.pending = .reset draw :: rest) :
    step s = .next ((s.setPending rest).afterReset draw) :=
  step_cons s (.reset draw) rest h

/-- Settles O44: the step is the reset's update, and each clause one field of it. -/
theorem resetDrawsRegisters : Obligations.ResetDrawsRegisters := by
  intro s draw rest h
  have hstatus : ((s.setPending rest).afterReset draw).statusWord = 0 := State.statusWord_eq_zero rfl rfl rfl
  exact ⟨_, step_reset h, by simp [State.wide, hstatus]⟩

/-- STATUS 0 is one the block can show. -/
theorem StatusLegal.of_zero {s : State} (hcmp : s.cmp = 0) (herr : s.err = false) (hecode : s.ecode = 0) :
    StatusLegal s := by
  simp [StatusLegal, hcmp, herr, hecode]

/-- Settles O47: the three fields of STATUS are 0 in the reset state. -/
theorem resetStatusIsZero : Obligations.ResetStatusIsZero :=
  ⟨.of_zero rfl rfl rfl, rfl, rfl, rfl, State.statusWord_eq_zero rfl rfl rfl⟩

end Sys2Proof.Machine
end

section
/-! A step that takes a legal command (20_memory.md R58): what the decoder accepts is well formed, and the step executes it. -/

namespace Sys2Proof

/-! ### What the decoder accepts is well formed

Only the two amounts of 30_encoding.md R72 can be out of range, and only the one-byte shape reads them. -/

theorem Instr.wellFormed_rotl128 (r : Byte) : (Instr.rotl128 r).wellFormed = rotAmountOk r := rfl

theorem Instr.wellFormed_xshr128 (n : Byte) : (Instr.xshr128 n).wellFormed = shiftAmountOk n := rfl

theorem wellFormed_of_decodePlain {i j : Instr} {f : Fields} (hi : i.wellFormed = true) (h : decodePlain i f = .ok j) :
    j.wellFormed = true := by
  obtain ⟨-, rfl⟩ := (decodePlain_ok i j f).mp h
  exact hi

theorem wellFormed_of_decodeDstSrc {i : WReg → WSrc → Instr} {j : Instr} {f : Fields}
    (hi : ∀ rd ra, (i rd ra).wellFormed = true) (h : decodeDstSrc i f = .ok j) : j.wellFormed = true := by
  obtain ⟨rd, ra, -, -, -, -, -, rfl⟩ := (decodeDstSrc_ok i j f).mp h
  exact hi rd ra

theorem wellFormed_of_decodeLsel {α : Type} {sel : BitVec 4 → Option α} {i : α → Instr} {j : Instr} {f : Fields}
    (hi : ∀ l, (i l).wellFormed = true) (h : decodeLsel sel i f = .ok j) : j.wellFormed = true := by
  obtain ⟨l, -, -, -, -, -, rfl⟩ := (decodeLsel_ok sel i j f).mp h
  exact hi l

/-- The byte has passed the check `ok`, so the command need be well formed on such bytes alone. -/
theorem wellFormed_of_decodeImm {ok : Byte → Bool} {i : Byte → Instr} {j : Instr} {f : Fields}
    (hi : ∀ b, ok b = true → (i b).wellFormed = true) (h : decodeImm ok i f = .ok j) : j.wellFormed = true := by
  obtain ⟨hok, -, -, -, -, rfl⟩ := (decodeImm_ok ok i j f).mp h
  exact hi f.imm8 hok

/-- What the opcode map answers is well formed: one case a row of 30_encoding.md R70, in the order of the opcodes. -/
theorem wellFormed_of_decodeFields {f : Fields} {d : Limb} {i : Instr} (h : decodeFields f d = .ok i) :
    i.wellFormed = true := by
  unfold decodeFields at h
  split at h
  · exact wellFormed_of_decodePlain rfl h
  · obtain ⟨rd, l, -, -, -, -, -, rfl⟩ := (decodeWrw_ok i f d).mp h
    rfl
  · obtain ⟨ra, l, -, -, -, -, -, rfl⟩ := (decodeRdw_ok i f).mp h
    rfl
  · exact wellFormed_of_decodeLsel (fun _ => rfl) h
  · exact wellFormed_of_decodeLsel (fun _ => rfl) h
  · exact wellFormed_of_decodeLsel (fun _ => rfl) h
  · exact wellFormed_of_decodeDstSrc (fun _ _ => rfl) h
  · exact wellFormed_of_decodeDstSrc (fun _ _ => rfl) h
  · obtain ⟨ra, rb, -, -, -, -, -, rfl⟩ := (decodeCmp256_ok i f).mp h
    rfl
  · obtain ⟨rd, -, -, -, -, -, rfl⟩ := (decodeRed256_ok i f).mp h
    rfl
  · exact wellFormed_of_decodeDstSrc (fun _ _ => rfl) h
  · obtain ⟨rd, ra, rb, -, -, -, -, -, rfl⟩ := (decodeMulw256_ok i f).mp h
    rfl
  · exact wellFormed_of_decodeDstSrc (fun _ _ => rfl) h
  · exact wellFormed_of_decodePlain rfl h
  · exact wellFormed_of_decodeImm (fun _ _ => rfl) h
  · exact wellFormed_of_decodePlain rfl h
  · exact wellFormed_of_decodeImm (fun r hok => (Instr.wellFormed_rotl128 r).trans hok) h
  · exact wellFormed_of_decodeLsel (fun _ => rfl) h
  · exact wellFormed_of_decodePlain rfl h
  · exact wellFormed_of_decodeImm (fun n hok => (Instr.wellFormed_xshr128 n).trans hok) h
  · exact wellFormed_of_decodePlain rfl h
  · exact wellFormed_of_decodePlain rfl h
  · exact wellFormed_of_decodeImm (fun _ _ => rfl) h
  · cases h

theorem wellFormed_of_decode {w : BitVec 32} {d : Limb} {i : Instr} (h : decode w d = .ok i) : i.wellFormed = true :=
  wellFormed_of_decodeFields h

end Sys2Proof

namespace Sys2Proof.Machine

open Sys2Proof

/-! ### A step that takes a command -/

theorem runCommand_of_decode_ok {w : BitVec 32} {d : Limb} {i : Instr} (h : decode w d = .ok i) (s : State) :
    runCommand w d s = exec i s := by
  simp only [runCommand, h]

/-- A step that takes a legal command from the port executes it (20_memory.md R58, 30_encoding.md R65). -/
theorem step_command_of_decode_ok {s : State} {w : BitVec 32} {d : Limb} {rest : List HostAction} {i : Instr}
    (hp : s.pending = .command w d :: rest) (hd : decode w d = .ok i) : step s = exec i (s.setPending rest) := by
  calc step s = runAction (.command w d) (s.setPending rest) := step_cons s (.command w d) rest hp
    _ = runCommand w d (s.setPending rest) := rfl
    _ = exec i (s.setPending rest) := runCommand_of_decode_ok hd _

/-- Settles O43: the decoder's answer is well formed, and the step is that command. -/
theorem stepRunsDecodedCommand : Obligations.StepRunsDecodedCommand := by
  intro s w d rest i hp hd
  exact ⟨wellFormed_of_decode hd, step_command_of_decode_ok hp hd⟩

end Sys2Proof.Machine
end

section
/-! The round trips of 30_encoding.md R67 to R71: what the encoder writes the decoder reads back, and what the decoder accepts
the encoder would have written. -/

namespace Sys2Proof

/-! ### The data-in as an operand

`D` stands beside the word, so a word alone fixes a command up to its data-in (30_encoding.md R68). -/

/-- The command with the data-in `d` where it uses one. -/
def Instr.withData (d : Limb) : Instr → Instr
  | .wrw rd limb _ => .wrw rd limb d
  | .wrx half _ => .wrx half d
  | .muls256 rd ra _ => .muls256 rd ra d
  | i => i

@[simp] theorem Instr.withData_dataIn (i : Instr) : i.withData i.dataIn = i := by cases i <;> rfl

theorem Instr.dataIn_withData {i : Instr} (h : i.usesData = true) (d : Limb) : (i.withData d).dataIn = d := by
  cases i with
  | wrw | wrx | muls256 => rfl
  | _ => cases h

theorem Instr.withData_of_not_usesData {i : Instr} (h : i.usesData = false) (d : Limb) : i.withData d = i := by
  cases i with
  | wrw | wrx | muls256 => cases h
  | _ => rfl

/-! ### From a command to its fields and back -/

/-- The opcode map reads a well-formed command's fields as that command with the data-in presented: each field holds the code
of its operand, and the amounts are in range by well-formedness. -/
theorem decodeFields_fields {i : Instr} (h : i.wellFormed = true) (d : Limb) :
    decodeFields i.fields d = .ok (i.withData d) := by
  cases i with
  | nop | init128 | lenbind | hlmix128 | mix128 | init256 => rfl
  | wrw rd l => exact (decodeWrw_ok _ _ d).mpr ⟨rd, l, rfl, rfl, rfl, rfl, rfl, rfl⟩
  | rdw ra l => exact (decodeRdw_ok _ _).mpr ⟨ra, l, rfl, rfl, rfl, rfl, rfl, rfl⟩
  | wrx half => exact (decodeLsel_ok _ _ _ _).mpr ⟨half, half.ofSel_sel, rfl, rfl, rfl, rfl, rfl⟩
  | rdx half => exact (decodeLsel_ok _ _ _ _).mpr ⟨half, half.ofSel_sel, rfl, rfl, rfl, rfl, rfl⟩
  | rds idx => exact (decodeLsel_ok _ _ _ _).mpr ⟨idx, idx.ofSel_sel, rfl, rfl, rfl, rfl, rfl⟩
  | mulk128 k => exact (decodeLsel_ok _ _ _ _).mpr ⟨k, k.ofSel_sel, rfl, rfl, rfl, rfl, rfl⟩
  | add256 rd ra | sub256 rd ra | muls256 rd ra | xor256 rd ra =>
    exact (decodeDstSrc_ok _ _ _).mpr ⟨rd, ra, rfl, rfl, rfl, rfl, rfl, rfl⟩
  | cmp256 ra rb => exact (decodeCmp256_ok _ _).mpr ⟨ra, rb, rfl, rfl, rfl, rfl, rfl, rfl⟩
  | red256 rd => exact (decodeRed256_ok _ _).mpr ⟨rd, rfl, rfl, rfl, rfl, rfl, rfl⟩
  | mulw256 rd ra rb => exact (decodeMulw256_ok _ _).mpr ⟨rd, ra, rb, rfl, rfl, rfl, rfl, rfl, rfl⟩
  | foldb | absorb256 => exact (decodeImm_ok anyByte _ _ _).mpr ⟨rfl, rfl, rfl, rfl, rfl, rfl⟩
  | rotl128 => exact (decodeImm_ok rotAmountOk _ _ _).mpr ⟨h, rfl, rfl, rfl, rfl, rfl⟩
  | xshr128 => exact (decodeImm_ok shiftAmountOk _ _ _).mpr ⟨h, rfl, rfl, rfl, rfl, rfl⟩

/-- Settles O34: the word's fields are the command's, and the data-in sent is the command's own. -/
theorem decodeReadsEncodedCommand : Obligations.DecodeReadsEncodedCommand := by
  intro i h
  calc decode (encode i).1 (encode i).2 = decodeFields (fieldsOf i.fields.word) i.dataIn := rfl
    _ = decodeFields i.fields i.dataIn := by rw [fieldsOf_word]
    _ = .ok (i.withData i.dataIn) := decodeFields_fields h i.dataIn
    _ = .ok i := by rw [i.withData_dataIn]

/-! ### From fields to a command and back

One lemma for each shape of the decoder that several commands share: if the commands of the shape have their operands' codes in
the fields the shape reads and zeros in the others, and the opcode is theirs, then the command answered has the very fields
decoded. -/

/-- Six fields, compared one by one; the opcode as a number, as the opcode map reads it. -/
theorem Fields.mk_eq {f : Fields} {o : Nat} {rd ra rb lsel : BitVec 4} {imm8 : BitVec 8} (ho : f.opcode.toNat = o)
    (hrd : f.rd = rd) (hra : f.ra = ra) (hrb : f.rb = rb) (hlsel : f.lsel = lsel) (himm8 : f.imm8 = imm8) :
    Fields.mk (BitVec.ofNat 8 o) rd ra rb lsel imm8 = f := by
  rw [← ho, BitVec.ofNat_toNat, BitVec.setWidth_eq, ← hrd, ← hra, ← hrb, ← hlsel, ← himm8]

section Shapes

variable {f : Fields} {o : Nat} {j : Instr}

theorem fields_of_decodePlain {i : Instr} (ho : f.opcode.toNat = o) (hi : i.fields = ⟨BitVec.ofNat 8 o, 0, 0, 0, 0, 0⟩)
    (h : decodePlain i f = .ok j) : j.fields = f := by
  obtain ⟨⟨hrd, hra, hrb, hlsel, himm8⟩, rfl⟩ := (decodePlain_ok i j f).mp h
  exact hi.trans (Fields.mk_eq ho hrd hra hrb hlsel himm8)

theorem fields_of_decodeDstSrc {i : WReg → WSrc → Instr} (ho : f.opcode.toNat = o)
    (hi : ∀ rd ra, (i rd ra).fields = ⟨BitVec.ofNat 8 o, rd.sel, ra.sel, 0, 0, 0⟩)
    (h : decodeDstSrc i f = .ok j) : j.fields = f := by
  obtain ⟨rd, ra, hrd, hra, hrb, hlsel, himm8, rfl⟩ := (decodeDstSrc_ok i j f).mp h
  exact (hi rd ra).trans (Fields.mk_eq ho hrd hra hrb hlsel himm8)

/-- The index is read from its own code alone: `hsel` for each of the four index types. -/
theorem fields_of_decodeLsel {α : Type} {ofSel : BitVec 4 → Option α} {sel : α → BitVec 4} {i : α → Instr}
    (hsel : ∀ s l, ofSel s = some l ↔ s = sel l) (ho : f.opcode.toNat = o)
    (hi : ∀ l, (i l).fields = ⟨BitVec.ofNat 8 o, 0, 0, 0, sel l, 0⟩) (h : decodeLsel ofSel i f = .ok j) : j.fields = f := by
  obtain ⟨l, hlsel, hrd, hra, hrb, himm8, rfl⟩ := (decodeLsel_ok ofSel i j f).mp h
  exact (hi l).trans (Fields.mk_eq ho hrd hra hrb ((hsel _ _).mp hlsel) himm8)

theorem fields_of_decodeImm {ok : Byte → Bool} {i : Byte → Instr} (ho : f.opcode.toNat = o)
    (hi : ∀ b, (i b).fields = ⟨BitVec.ofNat 8 o, 0, 0, 0, 0, b⟩) (h : decodeImm ok i f = .ok j) : j.fields = f := by
  obtain ⟨-, hrd, hra, hrb, hlsel, rfl⟩ := (decodeImm_ok ok i j f).mp h
  exact (hi f.imm8).trans (Fields.mk_eq ho hrd hra hrb hlsel rfl)

end Shapes

/-- A command that the opcode map answers has the fields it was read from: one case a row of 30_encoding.md R70, in the order of
the opcodes. -/
theorem fields_of_decodeFields {f : Fields} {d : Limb} {i : Instr} (h : decodeFields f d = .ok i) : i.fields = f := by
  unfold decodeFields at h
  split at h <;> rename_i ho
  · exact fields_of_decodePlain ho rfl h
  · obtain ⟨rd, l, hrd, hlsel, hra, hrb, himm8, rfl⟩ := (decodeWrw_ok i f d).mp h
    exact Fields.mk_eq ho hrd hra hrb hlsel himm8
  · obtain ⟨ra, l, hra, hlsel, hrd, hrb, himm8, rfl⟩ := (decodeRdw_ok i f).mp h
    exact Fields.mk_eq ho hrd hra hrb hlsel himm8
  · exact fields_of_decodeLsel Half.ofSel_eq_some ho (fun _ => rfl) h
  · exact fields_of_decodeLsel Half.ofSel_eq_some ho (fun _ => rfl) h
  · exact fields_of_decodeLsel StatusIdx.ofSel_eq_some ho (fun _ => rfl) h
  · exact fields_of_decodeDstSrc ho (fun _ _ => rfl) h
  · exact fields_of_decodeDstSrc ho (fun _ _ => rfl) h
  · obtain ⟨ra, rb, hra, hrb, hrd, hlsel, himm8, rfl⟩ := (decodeCmp256_ok i f).mp h
    exact Fields.mk_eq ho hrd hra hrb hlsel himm8
  · obtain ⟨rd, hrd, hra, hrb, hlsel, himm8, rfl⟩ := (decodeRed256_ok i f).mp h
    exact Fields.mk_eq ho hrd hra hrb hlsel himm8
  · exact fields_of_decodeDstSrc ho (fun _ _ => rfl) h
  · obtain ⟨rd, ra, rb, hrd, hra, hrb, hlsel, himm8, rfl⟩ := (decodeMulw256_ok i f).mp h
    exact Fields.mk_eq ho hrd hra hrb hlsel himm8
  · exact fields_of_decodeDstSrc ho (fun _ _ => rfl) h
  · exact fields_of_decodePlain ho rfl h
  · exact fields_of_decodeImm ho (fun _ => rfl) h
  · exact fields_of_decodePlain ho rfl h
  · exact fields_of_decodeImm ho (fun _ => rfl) h
  · exact fields_of_decodeLsel KIdx.ofSel_eq_some ho (fun _ => rfl) h
  · exact fields_of_decodePlain ho rfl h
  · exact fields_of_decodeImm ho (fun _ => rfl) h
  · exact fields_of_decodePlain ho rfl h
  · exact fields_of_decodePlain ho rfl h
  · exact fields_of_decodeImm ho (fun _ => rfl) h
  · cases h

/-- Once a word decodes, it decodes with any data-in, and to the same command but for the data-in (30_encoding.md R68): its
fields are the command's, so reading them back is the round trip. -/
theorem decode_ok_withData {w : BitVec 32} {d : Limb} {i : Instr} (h : decode w d = .ok i) (d' : Limb) :
    decode w d' = .ok (i.withData d') := by
  calc decode w d' = decodeFields (fieldsOf w) d' := rfl
    _ = decodeFields i.fields d' := by rw [fields_of_decodeFields h]
    _ = .ok (i.withData d') := decodeFields_fields (wellFormed_of_decode h) d'

/-- A command decoded from a word holds the data-in presented, where it uses one. -/
theorem withData_of_decode {w : BitVec 32} {d : Limb} {i : Instr} (h : decode w d = .ok i) : i.withData d = i :=
  Except.ok.inj ((decode_ok_withData h d).symm.trans h)

theorem dataIn_of_decode {w : BitVec 32} {d : Limb} {i : Instr} (h : decode w d = .ok i) (hi : i.usesData = true) :
    i.dataIn = d := by
  rw [← withData_of_decode h]
  exact Instr.dataIn_withData hi d

theorem word_of_decode {w : BitVec 32} {d : Limb} {i : Instr} (h : decode w d = .ok i) : i.fields.word = w := by
  rw [fields_of_decodeFields h, word_fieldsOf]

/-- Settles O35: the fields of the command are the word's, so the word made of them is the word. -/
theorem decodedWordIsEncoding : Obligations.DecodedWordIsEncoding :=
  fun _ _ _ h => ⟨wellFormed_of_decode h, word_of_decode h, dataIn_of_decode h⟩

end Sys2Proof
end

section
/-! What the decoder refuses: the ordered checks of 60_exceptions.md R204, read off the rows of the encoding table, and what
follows for the data-in, the reserved opcodes and the mask and match of 30_encoding.md R71. -/

namespace Sys2Proof

/-! ### The checks of one row, in order -/

/-- The cause that the checks of R204 (2) to (5) report for the fields of a word of the row's opcode. -/
def EncRow.cause (r : EncRow) (f : Fields) : Option ECode :=
  if r.rd.reserved f.rd.toNat || r.ra.reserved f.ra.toNat || r.rb.reserved f.rb.toNat then some .regsel
  else if r.lsel.reserved f.lsel.toNat then some .lsel
  else if r.imm8.reserved f.imm8.toNat then some .imm
  else if r.anyNonzero f then some .mbz
  else none

/-- The row of an opcode. -/
def rowOf (opcode : Nat) : Option EncRow := encodingTable.find? (fun r => r.opcode == opcode)

theorem reportedCause_of_rowOf_eq_none {w : BitVec 32} (h : rowOf (fieldsOf w).opcode.toNat = none) :
    reportedCause w = some .opcode := by
  rw [rowOf] at h
  simp only [reportedCause, h]

theorem reportedCause_of_rowOf_eq_some {w : BitVec 32} {r : EncRow} (h : rowOf (fieldsOf w).opcode.toNat = some r) :
    reportedCause w = r.cause (fieldsOf w) := by
  rw [rowOf] at h
  simp only [reportedCause, h, EncRow.cause]

/-- The opcode column of 30_encoding.md R71. -/
theorem encodingTable_opcodes :
    encodingTable.map EncRow.opcode =
      [0x00, 0x01, 0x02, 0x03, 0x04, 0x05, 0x10, 0x11, 0x12, 0x13, 0x14, 0x15, 0x16, 0x20, 0x21, 0x22, 0x23, 0x24, 0x25,
        0x26, 0x27, 0x30, 0x31] := rfl

theorem rowOf_eq_none_iff {opcode : Nat} : rowOf opcode = none ↔ opcode ∉ encodingTable.map EncRow.opcode := by
  simp [rowOf]

/-- No two rows have one opcode, so the row found first is the row. -/
theorem rowOf_eq_some_iff {opcode : Nat} {r : EncRow} :
    rowOf opcode = some r ↔ r ∈ encodingTable ∧ r.opcode = opcode := by
  have hrow : ∀ r ∈ encodingTable, rowOf r.opcode = some r := by decide
  constructor
  · intro h
    exact ⟨List.mem_of_find?_eq_some h, by simpa using List.find?_some h⟩
  · rintro ⟨hr, rfl⟩
    exact hrow r hr

@[simp] theorem FieldUse.reserved_unused (v : Nat) : FieldUse.unused.reserved v = false := rfl

@[simp] theorem FieldUse.nonzero_range (lo hi v : Nat) : (FieldUse.range lo hi).nonzero v = false := rfl

@[simp] theorem FieldUse.nonzero_unused {n : Nat} (v : BitVec n) : FieldUse.unused.nonzero v.toNat = !(v == 0) := by
  simp [FieldUse.nonzero, BitVec.toNat_eq, Bool.beq_eq_decide_eq]

@[simp] theorem FieldUse.nonzero_dst (v : Nat) : FieldUse.dst.nonzero v = false := rfl

@[simp] theorem FieldUse.nonzero_src (v : Nat) : FieldUse.src.nonzero v = false := rfl

/-! ### The cause a chain of checks reports -/

/-- The cause of a refusal; none for a command. -/
def causeOf : Except ECode Instr → Option ECode
  | .ok _ => none
  | .error c => some c

theorem causeOf_eq_some {x : Except ECode Instr} {c : ECode} : causeOf x = some c ↔ x = .error c := by
  cases x <;> simp [causeOf]

theorem causeOf_eq_none {x : Except ECode Instr} : causeOf x = none ↔ ∃ i, x = .ok i := by
  cases x <;> simp [causeOf]

/-- The check of a used select: its code where the select is refused, else what the checks after it report. -/
theorem causeOf_need {α : Type} {c : ECode} {o : Option α} {g : α → Except ECode Instr} {refused : Bool} {k : Option ECode}
    (ho : o = none ↔ refused = true) (hg : ∀ a, causeOf (g a) = k) :
    causeOf (need c o >>= g) = if refused then some c else k := by
  cases o with
  | none => rw [ho.mp rfl]; rfl
  | some a =>
    have hok : refused = false := by simpa using ho
    rw [hok]
    exact hg a

/-- The last check: the unused fields. -/
theorem causeOf_needZero (zero : Bool) (i : Instr) :
    causeOf (needZero zero >>= fun _ => pure i) = if !zero then some .mbz else none := by
  cases zero <;> rfl

theorem causeOf_needImm {ok reserved : Bool} {g : Unit → Except ECode Instr} {k : Option ECode}
    (hok : reserved = !ok) (hg : causeOf (g ()) = k) :
    causeOf (needImm ok >>= g) = if reserved then some .imm else k := by
  subst hok
  cases ok
  · rfl
  · exact hg

theorem WReg.ofSel_eq_none_iff_reserved (s : BitVec 4) : WReg.ofSel s = none ↔ FieldUse.dst.reserved s.toNat = true := by
  simp [WReg.ofSel_eq_none, FieldUse.dst, FieldUse.reserved]

theorem WSrc.ofSel_eq_none_iff_reserved (s : BitVec 4) : WSrc.ofSel s = none ↔ FieldUse.src.reserved s.toNat = true := by
  simp [WSrc.ofSel_eq_none, FieldUse.src, FieldUse.reserved]

theorem LimbIdx.ofSel_eq_none_iff_reserved (s : BitVec 4) :
    LimbIdx.ofSel s = none ↔ (FieldUse.range 0 3).reserved s.toNat = true := by
  simp [LimbIdx.ofSel_eq_none, FieldUse.reserved]

theorem Half.ofSel_eq_none_iff_reserved (s : BitVec 4) :
    Half.ofSel s = none ↔ (FieldUse.range 0 1).reserved s.toNat = true := by
  simp [Half.ofSel_eq_none, FieldUse.reserved]

theorem StatusIdx.ofSel_eq_none_iff_reserved (s : BitVec 4) :
    StatusIdx.ofSel s = none ↔ (FieldUse.range 0 3).reserved s.toNat = true := by
  simp [StatusIdx.ofSel_eq_none, FieldUse.reserved]

theorem KIdx.ofSel_eq_none_iff_reserved (s : BitVec 4) :
    KIdx.ofSel s = none ↔ (FieldUse.range 1 3).reserved s.toNat = true := by
  simp [KIdx.ofSel_eq_none, FieldUse.reserved]

theorem reserved_byte (b : Byte) : (FieldUse.range 0 255).reserved b.toNat = !anyByte b := by
  have hle : b.toNat ≤ 255 := Nat.le_of_lt_succ b.isLt
  simp [FieldUse.reserved, anyByte, hle]

theorem reserved_rotAmount (r : Byte) : (FieldUse.range 1 127).reserved r.toNat = !rotAmountOk r := by
  simp [FieldUse.reserved, rotAmountOk, ← decide_not]

theorem reserved_shiftAmount (n : Byte) : (FieldUse.range 0 127).reserved n.toNat = !shiftAmountOk n := by
  simp [FieldUse.reserved, shiftAmountOk, ← decide_not]

/-! ### Each shape of the decoder reports the cause of its row -/

section Shapes

variable (f : Fields) (o : Nat) (m p : BitVec 32)

theorem causeOf_decodePlain (i : Instr) :
    causeOf (decodePlain i f) = EncRow.cause ⟨o, .unused, .unused, .unused, .unused, .unused, m, p⟩ f := by
  rw [decodePlain, causeOf_needZero]
  simp [EncRow.cause, EncRow.anyNonzero]

theorem causeOf_decodeDstSrc (i : WReg → WSrc → Instr) :
    causeOf (decodeDstSrc i f) = EncRow.cause ⟨o, .dst, .src, .unused, .unused, .unused, m, p⟩ f := by
  rw [decodeDstSrc, causeOf_need (WReg.ofSel_eq_none_iff_reserved _) fun rd =>
    causeOf_need (WSrc.ofSel_eq_none_iff_reserved _) fun ra => causeOf_needZero _ _]
  simp [EncRow.cause, EncRow.anyNonzero, ite_or]

theorem causeOf_decodeWrw (d : Limb) :
    causeOf (decodeWrw f d) = EncRow.cause ⟨o, .dst, .unused, .unused, .range 0 3, .unused, m, p⟩ f := by
  rw [decodeWrw, causeOf_need (WReg.ofSel_eq_none_iff_reserved _) fun rd =>
    causeOf_need (LimbIdx.ofSel_eq_none_iff_reserved _) fun l => causeOf_needZero _ _]
  simp [EncRow.cause, EncRow.anyNonzero]

theorem causeOf_decodeRdw :
    causeOf (decodeRdw f) = EncRow.cause ⟨o, .unused, .src, .unused, .range 0 3, .unused, m, p⟩ f := by
  rw [decodeRdw, causeOf_need (WSrc.ofSel_eq_none_iff_reserved _) fun ra =>
    causeOf_need (LimbIdx.ofSel_eq_none_iff_reserved _) fun l => causeOf_needZero _ _]
  simp [EncRow.cause, EncRow.anyNonzero]

theorem causeOf_decodeLsel {α : Type} {ofSel : BitVec 4 → Option α} {lo hi : Nat}
    (hsel : ∀ s, ofSel s = none ↔ (FieldUse.range lo hi).reserved s.toNat = true) (i : α → Instr) :
    causeOf (decodeLsel ofSel i f) =
      EncRow.cause ⟨o, .unused, .unused, .unused, .range lo hi, .unused, m, p⟩ f := by
  rw [decodeLsel, causeOf_need (hsel _) fun l => causeOf_needZero _ _]
  simp [EncRow.cause, EncRow.anyNonzero]

theorem causeOf_decodeCmp256 :
    causeOf (decodeCmp256 f) = EncRow.cause ⟨o, .unused, .src, .src, .unused, .unused, m, p⟩ f := by
  rw [decodeCmp256, causeOf_need (WSrc.ofSel_eq_none_iff_reserved _) fun ra =>
    causeOf_need (WSrc.ofSel_eq_none_iff_reserved _) fun rb => causeOf_needZero _ _]
  simp [EncRow.cause, EncRow.anyNonzero, ite_or]

theorem causeOf_decodeRed256 :
    causeOf (decodeRed256 f) = EncRow.cause ⟨o, .dst, .unused, .unused, .unused, .unused, m, p⟩ f := by
  rw [decodeRed256, causeOf_need (WReg.ofSel_eq_none_iff_reserved _) fun rd => causeOf_needZero _ _]
  simp [EncRow.cause, EncRow.anyNonzero]

theorem causeOf_decodeMulw256 :
    causeOf (decodeMulw256 f) = EncRow.cause ⟨o, .dst, .src, .src, .unused, .unused, m, p⟩ f := by
  rw [decodeMulw256, causeOf_need (WReg.ofSel_eq_none_iff_reserved _) fun rd =>
    causeOf_need (WSrc.ofSel_eq_none_iff_reserved _) fun ra =>
      causeOf_need (WSrc.ofSel_eq_none_iff_reserved _) fun rb => causeOf_needZero _ _]
  simp [EncRow.cause, EncRow.anyNonzero, ite_or, or_assoc]

theorem causeOf_decodeImm {ok : Byte → Bool} {lo hi : Nat}
    (hok : ∀ b, (FieldUse.range lo hi).reserved b.toNat = !ok b) (i : Byte → Instr) :
    causeOf (decodeImm ok i f) = EncRow.cause ⟨o, .unused, .unused, .unused, .unused, .range lo hi, m, p⟩ f := by
  rw [decodeImm, causeOf_needImm (hok _) (causeOf_needZero _ _)]
  simp [EncRow.cause, EncRow.anyNonzero]

end Shapes

/-! ### The decoder reports the cause of the table -/

/-- A word that is no command of its opcode's row: the row's cause, or EC_OPCODE where there is no row. One case a row of
30_encoding.md R70, in the order of the opcodes. -/
theorem causeOf_decodeFields (f : Fields) (d : Limb) :
    causeOf (decodeFields f d) = (rowOf f.opcode.toNat).elim (some .opcode) (fun r => r.cause f) := by
  unfold decodeFields
  split
  case h_24 =>
    have hrow : rowOf f.opcode.toNat = none := by
      simp only [rowOf_eq_none_iff, encodingTable_opcodes, List.mem_cons, List.not_mem_nil, or_false, not_or]
      and_intros <;> assumption
    rw [hrow]
    rfl
  all_goals rename_i ho; rw [ho]
  · exact causeOf_decodePlain f _ _ _ _
  · exact causeOf_decodeWrw f _ _ _ d
  · exact causeOf_decodeRdw f _ _ _
  · exact causeOf_decodeLsel f _ _ _ Half.ofSel_eq_none_iff_reserved _
  · exact causeOf_decodeLsel f _ _ _ Half.ofSel_eq_none_iff_reserved _
  · exact causeOf_decodeLsel f _ _ _ StatusIdx.ofSel_eq_none_iff_reserved _
  · exact causeOf_decodeDstSrc f _ _ _ _
  · exact causeOf_decodeDstSrc f _ _ _ _
  · exact causeOf_decodeCmp256 f _ _ _
  · exact causeOf_decodeRed256 f _ _ _
  · exact causeOf_decodeDstSrc f _ _ _ _
  · exact causeOf_decodeMulw256 f _ _ _
  · exact causeOf_decodeDstSrc f _ _ _ _
  · exact causeOf_decodePlain f _ _ _ _
  · exact causeOf_decodeImm f _ _ _ reserved_byte _
  · exact causeOf_decodePlain f _ _ _ _
  · exact causeOf_decodeImm f _ _ _ reserved_rotAmount _
  · exact causeOf_decodeLsel f _ _ _ KIdx.ofSel_eq_none_iff_reserved _
  · exact causeOf_decodePlain f _ _ _ _
  · exact causeOf_decodeImm f _ _ _ reserved_shiftAmount _
  · exact causeOf_decodePlain f _ _ _ _
  · exact causeOf_decodePlain f _ _ _ _
  · exact causeOf_decodeImm f _ _ _ reserved_byte _

/-- The decoder's cause is the one the table gives, whatever the data-in (60_exceptions.md R204). -/
theorem causeOf_decode (w : BitVec 32) (d : Limb) : causeOf (decode w d) = reportedCause w := by
  rw [decode, causeOf_decodeFields]
  cases h : rowOf (fieldsOf w).opcode.toNat with
  | none => exact (reportedCause_of_rowOf_eq_none h).symm
  | some r => exact (reportedCause_of_rowOf_eq_some h).symm

theorem decode_eq_error_iff {w : BitVec 32} {d : Limb} {c : ECode} :
    decode w d = .error c ↔ reportedCause w = some c := by
  rw [← causeOf_decode w d, causeOf_eq_some]

theorem exists_decode_ok_iff {w : BitVec 32} {d : Limb} : (∃ i, decode w d = .ok i) ↔ reportedCause w = none := by
  rw [← causeOf_decode w d, causeOf_eq_none]

/-- Settles O39: the cause is read off the word alone; a command that decodes takes whatever data-in is presented; and the
commands that use it are those of three opcodes. -/
theorem dataInIsNeverChecked : Obligations.DataInIsNeverChecked := by
  refine ⟨fun w d d' c h => ?causeOfWord, fun w d d' i h hi => ?unused, fun w d i h hi => ⟨dataIn_of_decode h hi, ?opcode⟩⟩
  case causeOfWord => exact decode_eq_error_iff.mpr (decode_eq_error_iff.mp h)
  case unused =>
    rw [decode_ok_withData h d', Instr.withData_of_not_usesData hi]
  case opcode =>
    rw [← fields_of_decodeFields h]
    cases i with
    | wrw | wrx | muls256 => simp [Instr.fields]
    | _ => cases hi

/-! ### Reserved opcodes -/

/-- A row reports a field's cause, never EC_OPCODE. -/
theorem EncRow.cause_ne_opcode (r : EncRow) (f : Fields) : r.cause f ≠ some .opcode := by
  unfold EncRow.cause
  split_ifs <;> simp

theorem reportedCause_eq_opcode_iff {w : BitVec 32} :
    reportedCause w = some .opcode ↔ rowOf (fieldsOf w).opcode.toNat = none := by
  cases h : rowOf (fieldsOf w).opcode.toNat with
  | none => simp [reportedCause_of_rowOf_eq_none h]
  | some r => simp [reportedCause_of_rowOf_eq_some h, EncRow.cause_ne_opcode]

/-- The opcodes without a row, below 256, are the four reserved ranges of 30_encoding.md R70. -/
theorem rowOf_eq_none_iff_reserved {n : Nat} (hn : n < 256) :
    rowOf n = none ↔ 0x06 ≤ n ∧ n ≤ 0x0f ∨ 0x17 ≤ n ∧ n ≤ 0x1f ∨ 0x28 ≤ n ∧ n ≤ 0x2f ∨ 0x32 ≤ n := by
  simp only [rowOf_eq_none_iff, encodingTable_opcodes, List.mem_cons, List.not_mem_nil, or_false]
  omega

/-- Settles O38: EC_OPCODE is the cause of the opcodes without a row, and no other check reports it. -/
theorem reservedOpcodeIsIllegal : Obligations.ReservedOpcodeIsIllegal := by
  intro w d
  rw [decode_eq_error_iff, reportedCause_eq_opcode_iff, rowOf_eq_none_iff_reserved (fieldsOf w).opcode.isLt]

/-! ### Mask and match -/

/-- The bits of a field that the mask of R71 covers: all of an unused field, none of a used one. -/
def FieldUse.fixedBits (n : Nat) : FieldUse → BitVec n
  | .unused => BitVec.allOnes n
  | .range _ _ => 0

/-- The row's mask, field by field. -/
def EncRow.maskFields (r : EncRow) : Fields :=
  ⟨BitVec.allOnes 8, r.rd.fixedBits 4, r.ra.fixedBits 4, r.rb.fixedBits 4, r.lsel.fixedBits 4, r.imm8.fixedBits 8⟩

/-- The row's match: its opcode alone. -/
def EncRow.patternFields (r : EncRow) : Fields := ⟨BitVec.ofNat 8 r.opcode, 0, 0, 0, 0, 0⟩

/-- The mask and match columns of R71 say the same as the columns of the fields. -/
theorem encodingTable_mask_pattern :
    ∀ r ∈ encodingTable, r.mask = r.maskFields.word ∧ r.pattern = r.patternFields.word ∧ r.opcode < 256 := by
  decide

theorem Fields.word_injective : Function.Injective Fields.word := Function.LeftInverse.injective fieldsOf_word

theorem Fields.word_and (f g : Fields) :
    f.word &&& g.word = Fields.word ⟨f.opcode &&& g.opcode, f.rd &&& g.rd, f.ra &&& g.ra, f.rb &&& g.rb, f.lsel &&& g.lsel,
      f.imm8 &&& g.imm8⟩ := by
  simp only [Fields.word, ← BitVec.and_append]

theorem FieldUse.and_fixedBits_eq_zero_iff {n : Nat} (u : FieldUse) (v : BitVec n) :
    v &&& u.fixedBits n = 0 ↔ u.nonzero v.toNat = false := by
  cases u <;> simp [FieldUse.fixedBits]

/-- Mask and match agree with a word exactly where its opcode is the row's and the fields the row leaves unused are zero. -/
theorem EncRow.and_mask_eq_pattern_iff {r : EncRow} (hr : r ∈ encodingTable) (w : BitVec 32) :
    w &&& r.mask = r.pattern ↔ r.opcode = (fieldsOf w).opcode.toNat ∧ r.anyNonzero (fieldsOf w) = false := by
  obtain ⟨hmask, hpattern, hlt⟩ := encodingTable_mask_pattern r hr
  have hopcode : (fieldsOf w).opcode = BitVec.ofNat 8 r.opcode ↔ r.opcode = (fieldsOf w).opcode.toNat := by
    rw [BitVec.toNat_eq, BitVec.toNat_ofNat, Nat.mod_eq_of_lt hlt, eq_comm]
  conv_lhs => rw [← word_fieldsOf w, hmask, hpattern, Fields.word_and, Fields.word_injective.eq_iff]
  simp only [EncRow.maskFields, EncRow.patternFields, EncRow.anyNonzero, Fields.mk.injEq, BitVec.and_allOnes, hopcode,
    FieldUse.and_fixedBits_eq_zero_iff, Bool.or_eq_false_iff, and_assoc]

theorem EncRow.cause_eq_none_iff {r : EncRow} {f : Fields} :
    r.cause f = none ↔ r.anyReserved f = false ∧ r.anyNonzero f = false := by
  unfold EncRow.cause EncRow.anyReserved
  split_ifs <;> grind

theorem EncRow.legal_iff {r : EncRow} (hr : r ∈ encodingTable) (w : BitVec 32) :
    r.legal w = true ↔ r.opcode = (fieldsOf w).opcode.toNat ∧ r.cause (fieldsOf w) = none := by
  rw [EncRow.legal, Bool.and_eq_true, decide_eq_true_iff, EncRow.and_mask_eq_pattern_iff hr, EncRow.cause_eq_none_iff,
    Bool.not_eq_true']
  tauto

theorem reportedCause_eq_none_iff {w : BitVec 32} :
    reportedCause w = none ↔ ∃ r, rowOf (fieldsOf w).opcode.toNat = some r ∧ r.cause (fieldsOf w) = none := by
  cases h : rowOf (fieldsOf w).opcode.toNat with
  | none => simp [reportedCause_of_rowOf_eq_none h]
  | some r => simp [reportedCause_of_rowOf_eq_some h]

/-- Settles O37: a word is legal where the row of its opcode reports no cause, and mask, match and ranges say no more than
that. -/
theorem legalWordsAreTheTable : Obligations.LegalWordsAreTheTable := by
  intro w d
  calc (∃ i, decode w d = .ok i)
    _ ↔ ∃ r, rowOf (fieldsOf w).opcode.toNat = some r ∧ r.cause (fieldsOf w) = none := by
      rw [exists_decode_ok_iff, reportedCause_eq_none_iff]
    _ ↔ ∃ r ∈ encodingTable, r.opcode = (fieldsOf w).opcode.toNat ∧ r.cause (fieldsOf w) = none := by
      simp only [rowOf_eq_some_iff, and_assoc]
    _ ↔ ∃ r ∈ encodingTable, r.legal w = true :=
      exists_congr fun r => and_congr_right fun hr => (EncRow.legal_iff hr w).symm

end Sys2Proof
end

section
/-! The place of each field in a word (30_encoding.md R66), the example words of R75, and the two load pseudo-instructions of
R76. -/

namespace Sys2Proof

/-! ### The fields of a word -/

/-- Joining `n` low bits moves what stands before them up by `n` places. -/
theorem toNat_append_eq_add {m n : Nat} (x : BitVec m) (y : BitVec n) : (x ++ y).toNat = x.toNat * 2 ^ n + y.toNat := by
  rw [BitVec.toNat_append, ← Nat.shiftLeft_add_eq_or_of_lt y.isLt, Nat.shiftLeft_eq]

theorem Fields.word_toNat (f : Fields) :
    f.word.toNat = f.opcode.toNat * 2 ^ 24 + f.rd.toNat * 2 ^ 20 + f.ra.toNat * 2 ^ 16 + f.rb.toNat * 2 ^ 12 +
      f.lsel.toNat * 2 ^ 8 + f.imm8.toNat := by
  simp only [Fields.word, toNat_append_eq_add]
  omega

/-- Settles O40: a word is made of its fields, and such a word is the weighted sum. -/
theorem wordIsWeightedSumOfFields : Obligations.WordIsWeightedSumOfFields := by
  intro w
  rw [← Fields.word_toNat, word_fieldsOf]

/-- Settles O41, word by word: both sides are closed terms. -/
theorem exampleWordsDecode : Obligations.ExampleWordsDecode := by
  unfold Obligations.ExampleWordsDecode
  decide

end Sys2Proof

namespace Sys2Proof.Machine

open Sys2Proof

/-! ### Loading a value limb by limb

Each WRW changes its own limb of one register, so a list of them folds the limb writes over the old value. -/

/-- Only wide register `d` of the block may have changed. -/
def KeepsAllBut (d : WReg) (s t : State) : Prop :=
  KeepsWideBut d s t ∧ KeepsMixer128 s t ∧ t.pos = s.pos ∧ KeepsStatus s t

theorem KeepsAllBut.refl (d : WReg) (s : State) : KeepsAllBut d s s :=
  ⟨fun _ _ => rfl, ⟨rfl, rfl⟩, rfl, rfl, rfl, rfl⟩

theorem KeepsAllBut.trans {d : WReg} {s t u : State} (hst : KeepsAllBut d s t) (htu : KeepsAllBut d t u) :
    KeepsAllBut d s u := by
  obtain ⟨hwide, ⟨hx, hlen⟩, hpos, hcmp, herr, hecode⟩ := hst
  obtain ⟨hwide', ⟨hx', hlen'⟩, hpos', hcmp', herr', hecode'⟩ := htu
  exact ⟨fun r hr => (hwide' r hr).trans (hwide r hr), ⟨hx'.trans hx, hlen'.trans hlen⟩, hpos'.trans hpos,
    hcmp'.trans hcmp, herr'.trans herr, hecode'.trans hecode⟩

/-- Commands in a list run one after another. -/
theorem execAll_cons {i : Instr} {s t : State} (h : exec i s = .next t) (is : List Instr) :
    execAll (i :: is) s = execAll is t := by
  rw [execAll, h]

/-- WRW writes one limb of one register (43_system_and_host.md R172). -/
theorem exec_wrw (d : WReg) (i : LimbIdx) (limb : Limb) (s : State) :
    ∃ t, exec (.wrw d i limb) s = .next t ∧ t.wide d = (s.wide d).setLimb i limb ∧ KeepsAllBut d s t := by
  refine ⟨_, rfl, by simp, ?_⟩
  simp +contextual [KeepsAllBut, KeepsWideBut, KeepsMixer128, KeepsStatus]

/-- Copying limbs of `v` into a register by one WRW each. -/
theorem execAll_wrw (d : WReg) (v : Wide) (limbs : List LimbIdx) (s : State) :
    ∃ t, execAll (limbs.map fun i => .wrw d i (v.limb i)) s = .next t ∧
      t.wide d = limbs.foldl (fun a i => a.setLimb i (v.limb i)) (s.wide d) ∧ KeepsAllBut d s t := by
  induction limbs generalizing s with
  | nil => exact ⟨s, rfl, rfl, .refl d s⟩
  | cons i limbs ih =>
    obtain ⟨t, hexec, hwide, hkeep⟩ := exec_wrw d i (v.limb i) s
    obtain ⟨u, hexec', hwide', hkeep'⟩ := ih t
    refine ⟨u, (execAll_cons hexec _).trans hexec', ?_, hkeep.trans hkeep'⟩
    rw [hwide', hwide, List.foldl_cons]

/-- The four limbs of `v` copied into a wide value make `v`, whatever it held. -/
theorem foldl_setLimb (a v : Wide) : [LimbIdx.i0, .i1, .i2, .i3].foldl (fun a i => a.setLimb i (v.limb i)) a = v := rfl

/-- The two halves of `v` written into a 128-bit value make `v`, whatever it held (43_system_and_host.md R174). -/
theorem writeHalf_lo_hi (x v : Word128) : writeHalf (writeHalf x (lo64 v) .lo) (hi64 v) .hi = v := by
  simp [writeHalf]

/-- Settles O56: LDW copies the four limbs, LDX the two halves. -/
theorem loadPseudosLoad : Obligations.LoadPseudosLoad := by
  refine ⟨fun d v s => ?ldw, fun v s => ?ldx⟩
  case ldw =>
    obtain ⟨t, hexec, hwide, hkeep⟩ := execAll_wrw d v [.i0, .i1, .i2, .i3] s
    exact ⟨t, hexec, hwide.trans (foldl_setLimb _ v), hkeep⟩
  case ldx =>
    refine ⟨_, rfl, ?_⟩
    simp [writeHalf_lo_hi, KeepsWide, KeepsStatus]

end Sys2Proof.Machine
end

section
/-! The shared operations of the wide-integer family as numbers, where Laws/Wide.lean leaves them: the comparison as an `↔`, the
subtracter without a wrap, the loop of the reduction (40_wide256.md R93, R95, R96); and how a command's own word decodes. -/

namespace Sys2Proof

/-! ### Comparison -/

theorem cmp256_eq_less_iff {a b : Wide} : cmp256 a b = .less ↔ a.val < b.val := by
  obtain ⟨h, hlt⟩ | ⟨h, heq⟩ | ⟨h, hgt⟩ := cmp256_spec a b <;> simp only [h, reduceCtorEq, true_iff, false_iff] <;> omega

theorem cmp256_eq_equal_iff {a b : Wide} : cmp256 a b = .equal ↔ a.val = b.val := by
  obtain ⟨h, hlt⟩ | ⟨h, heq⟩ | ⟨h, hgt⟩ := cmp256_spec a b <;> simp only [h, reduceCtorEq, true_iff, false_iff] <;> omega

theorem cmp256_eq_greater_iff {a b : Wide} : cmp256 a b = .greater ↔ b.val < a.val := by
  obtain ⟨h, hlt⟩ | ⟨h, heq⟩ | ⟨h, hgt⟩ := cmp256_spec a b <;> simp only [h, reduceCtorEq, true_iff, false_iff] <;> omega

/-! ### Reduction -/

/-- No borrow leaves limb 3 when the first value is not the smaller (40_wide256.md R93). -/
theorem sub256_val_of_le {r m : Wide} (h : m.val ≤ r.val) : (sub256 r m).val = r.val - m.val := by
  have hsub := sub256_val r m
  have hr := r.val_lt
  omega

/-- The loop ends by its own test. -/
theorem reduceLoop_of_lt {p x : Wide} (h : x.val < p.val) (n : Nat) : reduceLoop p n x = x := by
  cases n with
  | zero => rfl
  | succ n => rw [reduceLoop, cmp256_eq_less_iff.mpr h]

/-- The test keeps the loop going: one pass. -/
theorem reduceLoop_succ_of_le {p x : Wide} (h : p.val ≤ x.val) (n : Nat) :
    reduceLoop p (n + 1) x = reduceLoop p n (sub256 x p) := by
  obtain heq | hlt := h.eq_or_lt
  · rw [reduceLoop, cmp256_eq_equal_iff.mpr heq.symm]
  · rw [reduceLoop, cmp256_eq_greater_iff.mpr hlt]

/-- With passes enough, the loop leaves the remainder: each pass takes `p` away once, and `x / p` counts the passes
(40_wide256.md R96). -/
theorem reduceLoop_val {p : Wide} (hp : 0 < p.val) {n : Nat} {x : Wide} (hn : x.val / p.val ≤ n) :
    (reduceLoop p n x).val = x.val % p.val := by
  induction n generalizing x with
  | zero =>
    have hlt : x.val < p.val := (Nat.div_eq_zero_iff_lt hp).mp (Nat.le_zero.mp hn)
    rw [reduceLoop_of_lt hlt, Nat.mod_eq_of_lt hlt]
  | succ n ih =>
    obtain hlt | hle := Nat.lt_or_ge x.val p.val
    · rw [reduceLoop_of_lt hlt, Nat.mod_eq_of_lt hlt]
    · have hsub := sub256_val_of_le hle
      have hpasses : (sub256 x p).val / p.val ≤ n := by
        rw [hsub]
        rw [Nat.div_eq_sub_div hp hle] at hn
        exact Nat.le_of_succ_le_succ hn
      rw [reduceLoop_succ_of_le hle, ih hpasses, hsub, ← Nat.mod_eq_sub_mod hle]

@[simp] theorem Config.params_P : Config.params.P = Config.P := rfl

theorem Config.P_val_pos : 0 < Config.P.val := by
  rw [Config.P_val]
  decide

/-- `reduce_mod` is the remainder modulo `P` (40_wide256.md R96 (b)). -/
theorem reduceMod_val (x : Wide) : (reduceMod Config.params x).val = x.val % Config.P.val :=
  reduceLoop_val Config.P_val_pos (Nat.le_refl _)

/-- `P` goes into a wide value once at most, since 2 `P` is above all of them (00_scope.md R9, 40_wide256.md R96 (c)). -/
theorem Wide.val_mod_P_of_le {x : Wide} (h : Config.P.val ≤ x.val) : x.val % Config.P.val = x.val - Config.P.val := by
  have hx := x.val_lt
  have hP := Config.P_val
  rw [Nat.mod_eq_sub_mod h, Nat.mod_eq_of_lt (by omega)]

/-- Settles O11: by induction on the passes for any modulus; for `P` a value is its own remainder or one subtraction away from
it. -/
theorem reductionLoopIsRemainder : Obligations.ReductionLoopIsRemainder := by
  refine ⟨fun p x n hp hn => reduceLoop_val hp hn, reduceMod_val, fun x => Wide.val_injective ?once⟩
  rw [reduceMod_val]
  split
  next hlt => exact Nat.mod_eq_of_lt hlt
  next hge =>
    have hle : Config.P.val ≤ x.val := Nat.le_of_not_lt hge
    rw [Wide.val_mod_P_of_le hle, sub256_val_of_le hle]

/-! ### Exclusive or -/

theorem xor256_limb (a b : Wide) (i : LimbIdx) : (xor256 a b).limb i = a.limb i ^^^ b.limb i := by cases i <;> rfl

/-! ### A command's own word -/

/-- The word of a well-formed command decodes to that command, with whatever data-in is presented (30_encoding.md R68). -/
theorem decode_word_fields (i : Instr) (h : i.wellFormed = true) (d : Limb) :
    decode i.fields.word d = .ok (i.withData d) := by
  rw [decode, fieldsOf_word]
  exact decodeFields_fields h d

/-- A reserved destination select is reported before anything else of the word is checked (60_exceptions.md R204 (2)). -/
theorem decode_eq_error_regsel_of_rd {w : BitVec 32} {r : EncRow} (hrow : rowOf (fieldsOf w).opcode.toNat = some r)
    (hrd : r.rd.reserved (fieldsOf w).rd.toNat = true) (d : Limb) : decode w d = .error .regsel := by
  rw [decode_eq_error_iff, reportedCause_of_rowOf_eq_some hrow, EncRow.cause, hrd]
  rfl

end Sys2Proof
end

section
/-! The wide-integer family (40_wide256.md): each command but CMP256 is one write of its destination, so its frame is proved
once and its value is that of the shared operation. -/

namespace Sys2Proof.Machine

open Sys2Proof

/-- A command whose meaning is to write one wide register keeps everything else and answers `(OK, 0)` (10_state.md R23). -/
theorem exec_of_setWide {i : Instr} {s : State} {d : WReg} {v : Wide} (h : exec i s = (s.setWide d v).done 0) :
    ∃ t, exec i s = .next t ∧ t.wide d = v ∧
      KeepsWideBut d s t ∧ KeepsMixer128 s t ∧ t.pos = s.pos ∧ KeepsStatus s t ∧ AnswersOk 0 s t := by
  refine ⟨_, h, by simp, fun r hr => by simp [hr], ?_⟩
  simp [KeepsMixer128, KeepsStatus, AnswersOk]

/-- Settles O7, from the value of the adder. -/
theorem add256AddsModulo : Obligations.Add256AddsModulo := by
  refine ⟨fun rd ra => decode_word_fields (.add256 rd ra) rfl, fun rd ra s => ?_⟩
  obtain ⟨t, hexec, hwide, hkeeps⟩ := exec_of_setWide (i := .add256 rd ra) (s := s) rfl
  exact ⟨t, hexec, by rw [hwide, add256_val], hkeeps⟩

/-- Settles O8, from the value of the subtracter. -/
theorem sub256SubtractsModulo : Obligations.Sub256SubtractsModulo := by
  refine ⟨fun rd ra => decode_word_fields (.sub256 rd ra) rfl, fun rd ra s => ?_⟩
  obtain ⟨t, hexec, hwide, hkeeps⟩ := exec_of_setWide (i := .sub256 rd ra) (s := s) rfl
  exact ⟨t, hexec, by rw [hwide, sub256_val], hkeeps⟩

/-- Settles O10: the remainder is that of the reduction loop, and `rd` is the field checked first. -/
theorem red256LeavesRemainder : Obligations.Red256LeavesRemainder := by
  refine ⟨fun rd => decode_word_fields (.red256 rd) rfl, fun w d hop hrd => ?refused, fun rd s => ?reduced⟩
  case refused =>
    have hrow : rowOf (fieldsOf w).opcode.toNat = some encodingTable[9] := by rw [hop]; rfl
    have hreserved : FieldUse.dst.reserved (fieldsOf w).rd.toNat = true := by simp [FieldUse.dst, FieldUse.reserved, hrd]
    exact decode_eq_error_regsel_of_rd hrow hreserved d
  case reduced =>
    obtain ⟨t, hexec, hwide, hkeeps⟩ := exec_of_setWide (i := .red256 rd) (s := s) rfl
    rw [← Config.P_val]
    have hval : (t.wide rd).val = (s.wide rd).val % Config.P.val := by rw [hwide, reduceMod_val]
    exact ⟨t, hexec, hval, hval ▸ Nat.mod_lt _ Config.P_val_pos, hkeeps⟩

/-- Settles O13, from the value of the scalar multiplier. -/
theorem muls256MultipliesByScalar : Obligations.Muls256MultipliesByScalar := by
  refine ⟨fun rd ra d => decode_word_fields (.muls256 rd ra d) rfl d, fun rd ra d s => ?_⟩
  obtain ⟨t, hexec, hwide, hkeeps⟩ := exec_of_setWide (i := .muls256 rd ra d) (s := s) rfl
  exact ⟨t, hexec, by rw [hwide, muls256_val], hkeeps⟩

/-- Settles O14, from the value of the wide multiplier. -/
theorem mulw256MultipliesModulo : Obligations.Mulw256MultipliesModulo := by
  refine ⟨fun rd ra rb => decode_word_fields (.mulw256 rd ra rb) rfl, fun rd ra rb s => ?_⟩
  obtain ⟨t, hexec, hwide, hkeeps⟩ := exec_of_setWide (i := .mulw256 rd ra rb) (s := s) rfl
  exact ⟨t, hexec, by rw [hwide, mulw256_val], hkeeps⟩

/-- Settles O15, limb by limb and from the value of the exclusive or. -/
theorem xor256XorsLimbs : Obligations.Xor256XorsLimbs := by
  refine ⟨fun rd ra => decode_word_fields (.xor256 rd ra) rfl, fun rd ra s => ?_⟩
  obtain ⟨t, hexec, hwide, hkeeps⟩ := exec_of_setWide (i := .xor256 rd ra) (s := s) rfl
  exact ⟨t, hexec, fun j => by rw [hwide, xor256_limb], by rw [hwide, xor256_val], hkeeps⟩

/-! ### Comparison -/

/-- CMP256 changes CMP alone and answers the result (40_wide256.md R97). -/
theorem exec_cmp256 {ra rb : WSrc} {s : State} {c : CmpResult} (hc : cmp256 (s.readSrc ra) (s.readSrc rb) = c) :
    ∃ t, exec (.cmp256 ra rb) s = .next t ∧ t.cmp = cmpBits c ∧
      KeepsWide s t ∧ KeepsMixer128 s t ∧ t.pos = s.pos ∧ t.err = s.err ∧ t.ecode = s.ecode ∧
      AnswersOk (cmpData c) s t := by
  subst hc
  refine ⟨_, rfl, by simp, fun r => by simp, ?_⟩
  simp [KeepsMixer128, AnswersOk]

/-- The three results in bits and sign-extended (00_scope.md R12). -/
theorem cmpData_less : cmpData .less = 0xffffffffffffffff := by decide
theorem cmpData_equal : cmpData .equal = 0 := by decide
theorem cmpData_greater : cmpData .greater = 1 := by decide

/-- Settles O9: in each of the three orders of the two values CMP and the answer are those of the result. -/
theorem cmp256ComparesValues : Obligations.Cmp256ComparesValues := by
  refine ⟨fun ra rb => decode_word_fields (.cmp256 ra rb) rfl, fun ra rb s => ?_⟩
  obtain ⟨t, hexec, hcmp, hkeeps⟩ := exec_cmp256 (ra := ra) (rb := rb) (s := s) rfl
  refine ⟨t, _, hexec, fun hlt => ?less, fun heq => ?equal, fun hgt => ?greater, hkeeps⟩
  case less =>
    rw [hcmp, cmp256_eq_less_iff.mpr hlt]
    exact ⟨rfl, cmpData_less⟩
  case equal =>
    rw [hcmp, cmp256_eq_equal_iff.mpr heq]
    exact ⟨rfl, cmpData_equal⟩
  case greater =>
    rw [hcmp, cmp256_eq_greater_iff.mpr hgt]
    exact ⟨rfl, cmpData_greater⟩

/-! ### A multiplication, then RED256 -/

/-- A command followed by RED256 of its destination reduces what the command left there. -/
theorem execAll_then_red256 {i : Instr} {s t : State} (h : exec i s = .next t) (d : WReg) :
    ∃ u, execAll [i, .red256 d] s = .next u ∧ (u.wide d).val = (t.wide d).val % Config.P.val := by
  obtain ⟨u, hexec, hwide, -⟩ := exec_of_setWide (i := .red256 d) (s := t) rfl
  exact ⟨u, (execAll_cons h _).trans (execAll_cons hexec _), by rw [hwide, reduceMod_val]⟩

/-- MODMUL256 leaves the cut product reduced (40_wide256.md R105). -/
theorem execAll_modmul256 (d : WReg) (a b : WSrc) (s : State) :
    ∃ t, execAll (modmul256 d a b) s = .next t ∧
      (t.wide d).val = ((s.readSrc a).val * (s.readSrc b).val) % 2 ^ 256 % Config.P.val := by
  obtain ⟨-, hmulw⟩ := mulw256MultipliesModulo
  obtain ⟨t, hexec, hval, -⟩ := hmulw d a b s
  obtain ⟨u, hexecAll, hred⟩ := execAll_then_red256 hexec d
  exact ⟨u, hexecAll, by rw [hred, hval]⟩

/-- The value of 40_wide256.md R105 for `P` times `P`. -/
theorem Config.P_sq_cut_mod :
    Config.P.val * Config.P.val % 2 ^ 256 % Config.P.val =
      (Wide.mk 0x000007a000000001 0x000007a0000e8902 0x0000000000000001 0).val := by
  rw [Config.P_val]
  decide

/-- Settles O16: RED256 reduces what either multiplication left, and for `P` times `P` the cut product is not a multiple
of `P`. -/
theorem modmulCutsBeforeReducing : Obligations.ModmulCutsBeforeReducing := by
  refine ⟨execAll_modmul256, fun d a c s => ?scalar, fun d s => ⟨Nat.mul_mod_left _ _, ?square⟩⟩
  case scalar =>
    obtain ⟨-, hmuls⟩ := muls256MultipliesByScalar
    obtain ⟨t, hexec, hval, -⟩ := hmuls d a c s
    obtain ⟨u, hexecAll, hred⟩ := execAll_then_red256 hexec d
    exact ⟨u, hexecAll, by rw [hred, hval]⟩
  case square =>
    obtain ⟨t, hexec, hval⟩ := execAll_modmul256 d .p .p s
    rw [State.readSrc_p, Config.P_sq_cut_mod] at hval
    exact ⟨t, hexec, Wide.val_injective hval⟩

end Sys2Proof.Machine
end

section
/-! What each family leaves alone (40_wide256.md R90, 41_mixer128.md R120, 42_mixer256.md R150): who writes the wide registers and
`X`, beside who writes the counters and CMP. -/

namespace Sys2Proof

/-! ### What the families write -/

theorem Instr.writesMixer128_of_inWide256 {i : Instr} (h : i.inWide256 = true) : i.writesMixer128 = false := by
  cases i with
  | add256 | sub256 | cmp256 | red256 | muls256 | mulw256 | xor256 => rfl
  | _ => cases h

theorem Instr.inMixer256_of_inWide256 {i : Instr} (h : i.inWide256 = true) : i.inMixer256 = false := by
  cases i with
  | add256 | sub256 | cmp256 | red256 | muls256 | mulw256 | xor256 => rfl
  | _ => cases h

/-- The 128-bit mixer has no wide destination and holds no CMP256. -/
theorem Instr.writes_of_inMixer128 {i : Instr} (h : i.inMixer128 = true) :
    i.wideDests = [] ∧ i.inMixer256 = false ∧ i.isCmp256 = false := by
  cases i with
  | init128 | foldb | lenbind | rotl128 | mulk128 | hlmix128 | xshr128 | mix128 => exact ⟨rfl, rfl, rfl⟩
  | _ => cases h

/-- The 256-bit mixer writes `W0` and `W1` at most and holds no CMP256. -/
theorem Instr.writes_of_inMixer256 {i : Instr} (h : i.inMixer256 = true) :
    i.wideDests ⊆ [.w0, .w1] ∧ i.writesMixer128 = false ∧ i.isCmp256 = false := by
  cases i with
  | init256 | absorb256 => exact ⟨by simp [Instr.wideDests], rfl, rfl⟩
  | _ => cases h

end Sys2Proof

namespace Sys2Proof.Machine

open Sys2Proof

/-! ### Who writes the wide registers and the mixer's -/

/-- A command writes no wide register but its destinations (10_state.md R20, R23). -/
theorem exec_wide_of_notMem {i : Instr} {s t : State} (h : exec i s = .next t) {r : WReg} (hr : r ∉ i.wideDests) :
    t.wide r = s.wide r := by
  cases i with
  | rotl128 | xshr128 =>
    simp only [exec, execRotl128, execXshr128] at h
    split at h <;> cases h <;> simp
  | wrw | add256 | sub256 | red256 | muls256 | mulw256 | xor256 | init256 =>
    have hne := List.ne_of_not_mem_cons hr
    cases h
    simp [hne]
  | absorb256 =>
    have hne0 := List.ne_of_not_mem_cons hr
    have hne1 := List.ne_of_not_mem_cons (List.not_mem_of_not_mem_cons hr)
    cases h
    simp [hne0, hne1]
  | nop | rdw | wrx | rdx | rds | cmp256 | init128 | foldb | lenbind | mulk128 | hlmix128 | mix128 =>
    cases h
    simp

/-- A command that does not write the 128-bit pipeline keeps `X` and LEN (10_state.md R20). -/
theorem exec_keepsMixer128 {i : Instr} {s t : State} (h : exec i s = .next t) (hi : i.writesMixer128 = false) :
    KeepsMixer128 s t := by
  cases i with
  | wrx | init128 | foldb | lenbind | rotl128 | mulk128 | hlmix128 | xshr128 | mix128 => cases hi
  | nop | wrw | rdw | rdx | rds | add256 | sub256 | cmp256 | red256 | muls256 | mulw256 | xor256 | init256 | absorb256 =>
    cases h
    simp [KeepsMixer128]

/-- POS is the 256-bit mixer's (10_state.md R31). -/
theorem exec_keepsPos {i : Instr} {s t : State} (h : exec i s = .next t) (hi : i.inMixer256 = false) : t.pos = s.pos := by
  obtain ⟨-, hpos⟩ := countersAreWrittenByTheirCommands i s t h
  refine hpos ?_ fun b => ?_ <;> rintro rfl <;> cases hi

/-- Settles O52: each clause is what the family does not write. -/
theorem familiesLeaveOthersAlone : Obligations.FamiliesLeaveOthersAlone := by
  intro i s t h
  refine ⟨fun hi => ?wide256, fun hi => ?mixer128, fun hi => ?mixer256, fun r hr => exec_wide_of_notMem h hr⟩
  case wide256 =>
    exact ⟨exec_keepsMixer128 h (Instr.writesMixer128_of_inWide256 hi), exec_keepsPos h (Instr.inMixer256_of_inWide256 hi)⟩
  case mixer128 =>
    obtain ⟨hdests, hmixer256, hcmp256⟩ := Instr.writes_of_inMixer128 hi
    have hwide : KeepsWide s t := fun r => exec_wide_of_notMem h (by simp [hdests])
    exact ⟨hwide, exec_keepsPos h hmixer256, cmpIsWrittenByCmp256Alone i s t hcmp256 h⟩
  case mixer256 =>
    obtain ⟨hdests, hmixer128, hcmp256⟩ := Instr.writes_of_inMixer256 hi
    have hw2 : t.wide .w2 = s.wide .w2 := exec_wide_of_notMem h fun hmem => by simpa using hdests hmem
    have hw3 : t.wide .w3 = s.wide .w3 := exec_wide_of_notMem h fun hmem => by simpa using hdests hmem
    exact ⟨exec_keepsMixer128 h hmixer128, hw2, hw3, cmpIsWrittenByCmp256Alone i s t hcmp256 h⟩

end Sys2Proof.Machine
end

section
/-! The pure functions of the 128-bit mixer as numbers and as bits (41_mixer128.md R122 to R136). -/

namespace Sys2Proof

/-! ### Halves -/

theorem lo64_xor (x y : Word128) : lo64 (x ^^^ y) = lo64 x ^^^ lo64 y := BitVec.extractLsb'_xor

theorem hi64_xor (x y : Word128) : hi64 (x ^^^ y) = hi64 x ^^^ hi64 y := BitVec.extractLsb'_xor

/-- `hlmix` and `lenbind` answer in halves; two 128-bit values with the same halves are the same. -/
theorem Word128.ext_halves {x y : Word128} (hhi : hi64 x = hi64 y) (hlo : lo64 x = lo64 y) : x = y := by
  rw [← join64_halves x, ← join64_halves y, hhi, hlo]

/-! ### The fold (R122, R136) -/

theorem foldStep_toNat (x : Word128) (b : Byte) : (foldStep x b).toNat = (x.toNat * 257 + b.toNat) % 2 ^ 128 := by
  have hmul : (257 : Word128).toNat = 257 := rfl
  rw [foldStep, BitVec.toNat_add, BitVec.toNat_mul, BitVec.toNat_setWidth, hmul]
  omega

/-- The base-257 numeral of a string with one more byte. -/
theorem ofDigits_reverse_concat (bs : List Byte) (b : Byte) :
    Nat.ofDigits 257 ((bs ++ [b]).reverse.map BitVec.toNat) =
      Nat.ofDigits 257 (bs.reverse.map BitVec.toNat) * 257 + b.toNat := by
  rw [List.reverse_append, List.reverse_singleton, List.singleton_append, List.map_cons, Nat.ofDigits_cons]
  omega

/-- From 0 the fold leaves the base-257 numeral of the bytes, cut to 128 bits (R136). -/
theorem foldl_foldStep_toNat (bs : List Byte) :
    (bs.foldl foldStep 0).toNat = Nat.ofDigits 257 (bs.reverse.map BitVec.toNat) % 2 ^ 128 := by
  induction bs using List.reverseRecOn with
  | nil => rfl
  | append_singleton bs b ih =>
    rw [List.foldl_append, List.foldl_cons, List.foldl_nil, foldStep_toNat, ih, ofDigits_reverse_concat]
    omega

/-- Fifteen base-257 digits fit in 128 bits (R136). -/
theorem ofDigits_bytes_lt {bs : List Byte} (h : bs.length ≤ 15) :
    Nat.ofDigits 257 (bs.reverse.map BitVec.toNat) < 2 ^ 128 := by
  have hdigits : ∀ n ∈ bs.reverse.map BitVec.toNat, n < 257 := by
    intro n hn
    obtain ⟨b, -, rfl⟩ := List.mem_map.mp hn
    exact Nat.lt_succ_of_lt b.isLt
  calc Nat.ofDigits 257 (bs.reverse.map BitVec.toNat)
    _ < 257 ^ (bs.reverse.map BitVec.toNat).length := Nat.ofDigits_lt_base_pow_length (by decide) hdigits
    _ ≤ 257 ^ 15 := Nat.pow_le_pow_right (by decide) (by simpa using h)
    _ < 2 ^ 128 := by decide

/-! ### Binding the length (R124) -/

theorem lenbind_toNat (x len : Word128) :
    (lenbind x len).toNat = (x.toNat ^^^ ((len.toNat * 2 ^ 64) % 2 ^ 128)) ^^^ len.toNat := by
  simp only [lenbind, BitVec.toNat_xor, BitVec.toNat_shiftLeft, Nat.shiftLeft_eq]

/-- The mask of the binding in halves: the high half receives both halves of LEN. -/
theorem shiftLeft_xor_eq_join64 (len : Word128) : (len <<< 64) ^^^ len = join64 (lo64 len ^^^ hi64 len) (lo64 len) := by
  refine Word128.ext_halves ?hi ?lo
  case hi =>
    have hshift : hi64 (len <<< 64) = lo64 len := by
      apply BitVec.eq_of_toNat_eq
      rw [hi64_toNat, lo64_toNat, BitVec.toNat_shiftLeft, Nat.shiftLeft_eq]
      omega
    rw [hi64_join64, hi64_xor, hshift]
  case lo =>
    have hshift : lo64 (len <<< 64) = 0#64 := by
      apply BitVec.eq_of_toNat_eq
      rw [lo64_toNat, BitVec.toNat_shiftLeft, Nat.shiftLeft_eq, BitVec.toNat_zero]
      omega
    rw [lo64_join64, lo64_xor, hshift, BitVec.zero_xor]

theorem lenbind_eq_xor_join64 (x len : Word128) : lenbind x len = x ^^^ join64 (lo64 len ^^^ hi64 len) (lo64 len) := by
  rw [lenbind, BitVec.xor_assoc, shiftLeft_xor_eq_join64]

theorem hi64_lenbind (x len : Word128) : hi64 (lenbind x len) = hi64 x ^^^ (lo64 len ^^^ hi64 len) := by
  rw [lenbind_eq_xor_join64, hi64_xor, hi64_join64]

/-- A length that fits in a half stands in both halves of the mask. -/
theorem lenbind_toNat_of_lt (x : Word128) {len : Word128} (h : len.toNat < 2 ^ 64) :
    (lenbind x len).toNat = x.toNat ^^^ (len.toNat * 2 ^ 64 + len.toNat) := by
  have hlo : (lo64 len).toNat = len.toNat := by rw [lo64_toNat, Nat.mod_eq_of_lt h]
  have hhi : hi64 len = 0#64 := by
    apply BitVec.eq_of_toNat_eq
    rw [hi64_toNat, Nat.div_eq_of_lt h, BitVec.toNat_zero]
  rw [lenbind_eq_xor_join64, hhi, BitVec.xor_zero, BitVec.toNat_xor, join64_toNat, hlo]

@[simp] theorem lenbind_zero (x : Word128) : lenbind x 0 = x := by simp [lenbind]

/-- The mask is the same both times, so the second binding takes the first away. -/
theorem lenbind_lenbind (x len : Word128) : lenbind (lenbind x len) len = x := by
  rw [lenbind_eq_xor_join64, lenbind_eq_xor_join64, BitVec.xor_assoc, BitVec.xor_self, BitVec.xor_zero]

/-! ### The rotation (R126) -/

theorem rotl128_toNat (x : Word128) (r : Nat) :
    (rotl128 x r).toNat = ((x.toNat * 2 ^ r) % 2 ^ 128) ||| (x.toNat / 2 ^ (128 - r)) := by
  simp only [rotl128, BitVec.toNat_or, BitVec.toNat_shiftLeft, BitVec.toNat_ushiftRight, Nat.shiftLeft_eq,
    Nat.shiftRight_eq_div_pow]

/-- Below 128 the two shifts of the rule are the rotation of bit vectors. -/
theorem rotl128_eq_rotateLeft (x : Word128) {r : Nat} (h : r < 128) : rotl128 x r = x.rotateLeft r := by
  rw [BitVec.rotateLeft_def, Nat.mod_eq_of_lt h, rotl128]

/-- Bit `i` goes to bit `(i + r) mod 128`: up by `r`, or around from the top. -/
theorem getLsbD_rotl128 (x : Word128) {r i : Nat} (hr : r < 128) (hi : i < 128) :
    (rotl128 x r).getLsbD ((i + r) % 128) = x.getLsbD i := by
  rw [rotl128_eq_rotateLeft x hr, BitVec.getLsbD_rotateLeft_of_le hr]
  obtain hup | haround := Nat.lt_or_ge (i + r) 128
  · have hge : ¬ i + r < r := by omega
    simp [Nat.mod_eq_of_lt hup, hge, hup]
  · have hmod : (i + r) % 128 = i + r - 128 := by omega
    have hlt : i + r - 128 < r := by omega
    have hsource : 128 - r + (i + r - 128) = i := by omega
    simp [hmod, hlt, hsource]

/-- Rotating on by the rest of a full turn gives the value back: bit `j` comes from bit `(j + r) mod 128`, and that one from
bit `j`. -/
theorem rotl128_rotl128_sub (x : Word128) {r : Nat} (h1 : 1 ≤ r) (h127 : r ≤ 127) :
    rotl128 (rotl128 x r) (128 - r) = x := by
  apply BitVec.eq_of_getLsbD_eq
  intro j hj
  have hback : ((j + r) % 128 + (128 - r)) % 128 = j := by omega
  calc (rotl128 (rotl128 x r) (128 - r)).getLsbD j
    _ = (rotl128 (rotl128 x r) (128 - r)).getLsbD (((j + r) % 128 + (128 - r)) % 128) := by rw [hback]
    _ = (rotl128 x r).getLsbD ((j + r) % 128) := getLsbD_rotl128 _ (by omega) (by omega)
    _ = x.getLsbD j := getLsbD_rotl128 x (by omega) hj

/-! ### The multiplication and the mixing of the halves (R128, R130) -/

theorem mulk128_toNat (c : Params) (k : KIdx) (x : Word128) :
    (mulk128 c k x).toNat = x.toNat * (c.mulK k).toNat % 2 ^ 128 := BitVec.toNat_mul _ _

theorem hlmix_toNat (x : Word128) :
    (hlmix x).toNat = (x.toNat % 2 ^ 64) * 2 ^ 64 + ((x.toNat / 2 ^ 64) ^^^ (x.toNat % 2 ^ 64)) := by
  rw [hlmix, join64_toNat, BitVec.toNat_xor, lo64_toNat, hi64_toNat]

/-- What undoes `hlmix`: its high half is the old low half, which taken out of its low half leaves the old high half. -/
def unhlmix (y : Word128) : Word128 := join64 (lo64 y ^^^ hi64 y) (hi64 y)

theorem unhlmix_hlmix (x : Word128) : unhlmix (hlmix x) = x := by
  apply Word128.ext_halves <;> simp [unhlmix, hlmix]

theorem hlmix_unhlmix (y : Word128) : hlmix (unhlmix y) = y := by
  apply Word128.ext_halves <;> simp [unhlmix, hlmix]

theorem hlmix_bijective : Function.Bijective hlmix :=
  Function.bijective_iff_has_inverse.mpr ⟨unhlmix, unhlmix_hlmix, hlmix_unhlmix⟩

/-! ### The shift and XOR (R132) -/

theorem xshr_toNat (x : Word128) (n : Nat) : (xshr x n).toNat = x.toNat ^^^ (x.toNat / 2 ^ n) := by
  rw [xshr, BitVec.toNat_xor, BitVec.toNat_ushiftRight, Nat.shiftRight_eq_div_pow]

@[simp] theorem xshr_amount_zero (x : Word128) : xshr x 0 = 0 := by simp [xshr]

/-- A shift by 64 or more brings nothing into the high half. -/
theorem xshr_toNat_div_of_le (x : Word128) {n : Nat} (h : 64 ≤ n) : (xshr x n).toNat / 2 ^ 64 = x.toNat / 2 ^ 64 := by
  have hshifted : x.toNat / 2 ^ n / 2 ^ 64 = 0 := by
    rw [Nat.div_div_eq_div_mul, ← pow_add]
    exact Nat.div_eq_of_lt (x.isLt.trans_le (Nat.pow_le_pow_right (by decide) (by omega)))
  rw [xshr_toNat, Nat.xor_div_two_pow, hshifted, Nat.xor_zero]

/-! ### The digest of the empty string (R137) -/

theorem foldString_nil (c : Params) : foldString c [] = c.xInit := lenbind_zero c.xInit

theorem hash128_nil (c : Params) : hash128 c [] = mix128 c c.xInit := by rw [hash128, foldString_nil]

theorem rotl128_zero (r : Nat) : rotl128 0 r = 0 := by simp [rotl128]

theorem mulk128_zero (c : Params) (k : KIdx) : mulk128 c k 0 = 0 := by simp [mulk128]

theorem hlmix_zero : hlmix 0 = 0 := by decide

theorem xshr_zero (n : Nat) : xshr 0 n = 0 := by simp [xshr]

/-- Each of the ten stages keeps 0 (R134). -/
theorem mix128_zero (c : Params) : mix128 c 0 = 0 := by
  simp only [mix128, mulk128_zero, rotl128_zero, hlmix_zero, xshr_zero]

/-! ### Reserved bytes and indices (60_exceptions.md R204) -/

/-- A command whose one field is `imm8` reports a reserved byte whatever the other fields hold. -/
theorem decode_eq_error_imm {w : BitVec 32} {o : Nat} {u : FieldUse} {m p : BitVec 32}
    (hrow : rowOf (fieldsOf w).opcode.toNat = some ⟨o, .unused, .unused, .unused, .unused, u, m, p⟩)
    (himm : u.reserved (fieldsOf w).imm8.toNat = true) (d : Limb) : decode w d = .error .imm := by
  rw [decode_eq_error_iff, reportedCause_of_rowOf_eq_some hrow]
  simp [EncRow.cause, himm]

/-- A command whose one field is `lsel` reports a reserved index whatever the other fields hold. -/
theorem decode_eq_error_lsel {w : BitVec 32} {o : Nat} {u : FieldUse} {m p : BitVec 32}
    (hrow : rowOf (fieldsOf w).opcode.toNat = some ⟨o, .unused, .unused, .unused, u, .unused, m, p⟩)
    (hlsel : u.reserved (fieldsOf w).lsel.toNat = true) (d : Limb) : decode w d = .error .lsel := by
  rw [decode_eq_error_iff, reportedCause_of_rowOf_eq_some hrow]
  simp [EncRow.cause, hlsel]

theorem rotAmountOk_iff (r : Byte) : rotAmountOk r = true ↔ 1 ≤ r.toNat ∧ r.toNat ≤ 127 := decide_eq_true_iff

theorem shiftAmountOk_iff (n : Byte) : shiftAmountOk n = true ↔ n.toNat ≤ 127 := decide_eq_true_iff

end Sys2Proof
end

section
/-! A run over commands that the host has issued is those commands one after another (30_encoding.md R65,
70_reset_and_hazards.md R233): no command reads or writes what is still to come. -/

namespace Sys2Proof.Machine

open Sys2Proof

/-! ### What is pending stays out of every command -/

@[simp] theorem State.setPending_self (s : State) : s.setPending s.pending = s := rfl

@[simp] theorem State.setPending_setPending (s : State) (as bs : List HostAction) :
    (s.setPending as).setPending bs = s.setPending bs := rfl

theorem State.readSrc_setPending (s : State) (as : List HostAction) (a : WSrc) :
    (s.setPending as).readSrc a = s.readSrc a :=
  State.readSrc_congr _ _ (s.wide_setPending as) a

theorem State.readStatus_setPending (s : State) (as : List HostAction) (i : StatusIdx) :
    (s.setPending as).readStatus i = s.readStatus i := by
  cases i <;> rfl

theorem State.setWide_setPending (s : State) (as : List HostAction) (d : WReg) (v : Wide) :
    (s.setPending as).setWide d v = (s.setWide d v).setPending as := by
  cases d <;> rfl

theorem State.raiseIllegal_setPending (s : State) (as : List HostAction) (c : ECode) :
    (s.setPending as).raiseIllegal c = (s.raiseIllegal c).setPending as := by
  cases herr : s.err <;> simp only [State.raiseIllegal, State.recordFault, State.setPending_err, herr] <;> rfl

/-- A command does the same whatever the host has still to issue, and leaves that as it is. -/
theorem exec_setPending {i : Instr} {s t : State} (h : exec i s = .next t) (as : List HostAction) :
    exec i (s.setPending as) = .next (t.setPending as) := by
  cases i with
  | rotl128 | xshr128 =>
    simp only [exec, execRotl128, execXshr128] at h ⊢
    split at h <;> rename_i hamount <;> cases h
    · rw [if_pos hamount]
      rfl
    · rw [if_neg hamount, State.raiseIllegal_setPending]
  | rdw | rds | cmp256 =>
    cases h
    simp only [exec, execRdw, execRds, execCmp256, State.readSrc_setPending, State.readStatus_setPending]
    rfl
  | wrw | add256 | sub256 | red256 | muls256 | mulw256 | xor256 | init256 | absorb256 =>
    cases h
    simp only [exec, execWrw, execAdd256, execSub256, execRed256, execMuls256, execMulw256, execXor256, execInit256,
      execAbsorb256, State.wide_setPending, State.readSrc_setPending, State.setWide_setPending]
    rfl
  | nop | wrx | rdx | init128 | foldb | lenbind | mulk128 | hlmix128 | mix128 =>
    cases h
    rfl

theorem exec_pending {i : Instr} {s t : State} (h : exec i s = .next t) : t.pending = s.pending := by
  have hsame : exec i s = .next (t.setPending s.pending) := exec_setPending h s.pending
  rw [Host.Outcome.next.inj (h.symm.trans hsame), State.setPending_pending]

/-! ### A run over issued commands -/

/-- A command list that runs has a first command that runs. -/
theorem execAll_cons_eq_next {i : Instr} {is : List Instr} {s u : State} (h : execAll (i :: is) s = .next u) :
    ∃ t, exec i s = .next t ∧ execAll is t = .next u := by
  rw [execAll] at h
  split at h
  · next t hexec => exact ⟨t, hexec, h⟩
  · cases h
  · cases h

/-- The machine given the words of well-formed commands takes them one a step, as the commands one after another. -/
theorem core_run_issue {is : List Instr} (hwf : ∀ i ∈ is, i.wellFormed = true) {rest : List HostAction} {s u : State}
    (hp : s.pending = issue is ++ rest) (h : execAll is (s.setPending rest) = .next u) :
    core.run is.length s = .next u := by
  induction is generalizing s with
  | nil =>
    have hrest : s.pending = rest := hp
    rwa [← hrest, State.setPending_self] at h
  | cons i is ih =>
    obtain ⟨hi, his⟩ := List.forall_mem_cons.mp hwf
    obtain ⟨t, hexec, htail⟩ := execAll_cons_eq_next h
    have ht : t.setPending rest = t := by rw [← s.setPending_pending rest, ← exec_pending hexec, State.setPending_self]
    have hstep : step s = .next (t.setPending (issue is ++ rest)) := by
      rw [step_command_of_decode_ok hp (decodeReadsEncodedCommand i hi)]
      exact exec_setPending hexec _
    rw [List.length_cons, core_run_succ _ hstep]
    refine ih his rfl ?_
    rwa [State.setPending_setPending, ht]

end Sys2Proof.Machine
end

section
/-! The 128-bit mixer family (41_mixer128.md): each command writes `X` and LEN alone and answers `(OK, 0)`, so a state after any
number of them is one update, and the composite commands and the digest follow from its composition. -/

namespace Sys2Proof.Machine

open Sys2Proof

/-! ### The state after commands of the mixer -/

/-- The state after `n` commands of the mixer that executed and left `x` in `X` and `len` in LEN. -/
def State.afterMixer128 (s : State) (n : Nat) (x len : Word128) : State :=
  { (s.setX x).setLen len with responses := s.responses ++ List.replicate n ⟨.ok, 0⟩ }

@[simp] theorem State.afterMixer128_x (s : State) (n : Nat) (x len : Word128) : (s.afterMixer128 n x len).x = x := rfl

@[simp] theorem State.afterMixer128_len (s : State) (n : Nat) (x len : Word128) : (s.afterMixer128 n x len).len = len := rfl

/-- Answers add up, and the last `X` and LEN stay. -/
@[simp] theorem State.afterMixer128_afterMixer128 (s : State) (m n : Nat) (x len x' len' : Word128) :
    (s.afterMixer128 m x len).afterMixer128 n x' len' = s.afterMixer128 (m + n) x' len' := by
  simp only [State.afterMixer128, List.replicate_add, ← List.append_assoc]
  rfl

/-- Everything but `X` and LEN is as before. -/
theorem State.afterMixer128_keeps (s : State) (n : Nat) (x len : Word128) :
    KeepsWide s (s.afterMixer128 n x len) ∧ (s.afterMixer128 n x len).pos = s.pos ∧
      KeepsStatus s (s.afterMixer128 n x len) :=
  ⟨fun r => by cases r <;> rfl, rfl, rfl, rfl, rfl⟩

theorem State.afterMixer128_one_keeps (s : State) (x len : Word128) :
    KeepsWide s (s.afterMixer128 1 x len) ∧ (s.afterMixer128 1 x len).pos = s.pos ∧
      KeepsStatus s (s.afterMixer128 1 x len) ∧ AnswersOk 0 s (s.afterMixer128 1 x len) := by
  obtain ⟨hwide, hpos, hstatus⟩ := s.afterMixer128_keeps 1 x len
  exact ⟨hwide, hpos, hstatus, rfl, rfl⟩

/-! ### What each command leaves in `X` and LEN -/

theorem exec_init128 (s : State) : exec .init128 s = .next (s.afterMixer128 1 Config.xInit 0) := rfl

theorem exec_foldb (b : Byte) (s : State) :
    exec (.foldb b) s = .next (s.afterMixer128 1 (foldStep s.x b) (s.len + 1)) := rfl

theorem exec_lenbind (s : State) : exec .lenbind s = .next (s.afterMixer128 1 (lenbind s.x s.len) s.len) := rfl

theorem exec_rotl128 {r : Byte} (h : rotAmountOk r = true) (s : State) :
    exec (.rotl128 r) s = .next (s.afterMixer128 1 (rotl128 s.x r.toNat) s.len) := if_pos h

theorem exec_mulk128 (k : KIdx) (s : State) :
    exec (.mulk128 k) s = .next (s.afterMixer128 1 (mulk128 Config.params k s.x) s.len) := rfl

theorem exec_hlmix128 (s : State) : exec .hlmix128 s = .next (s.afterMixer128 1 (hlmix s.x) s.len) := rfl

theorem exec_xshr128 {n : Byte} (h : shiftAmountOk n = true) (s : State) :
    exec (.xshr128 n) s = .next (s.afterMixer128 1 (xshr s.x n.toNat) s.len) := if_pos h

theorem exec_mix128 (s : State) :
    exec .mix128 s = .next (s.afterMixer128 1 (mix128 Config.params s.x) s.len) := rfl

/-! ### The amounts that the decoder refuses -/

theorem exec_rotl128_illegal {r : Byte} (h : rotAmountOk r = false) (s : State) :
    exec (.rotl128 r) s = .next (s.raiseIllegal .imm) := if_neg (Bool.eq_false_iff.mp h)

theorem exec_xshr128_illegal {n : Byte} (h : shiftAmountOk n = false) (s : State) :
    exec (.xshr128 n) s = .next (s.raiseIllegal .imm) := if_neg (Bool.eq_false_iff.mp h)

/-- Raising `IllegalCommand` has the effects of 60_exceptions.md R203 and no other. -/
theorem takesIllegal_raiseIllegal (c : ECode) (s : State) : TakesIllegal c s (s.raiseIllegal c) := by
  refine ⟨s.wide_raiseIllegal c, ⟨s.raiseIllegal_x c, s.raiseIllegal_len c⟩, s.raiseIllegal_pos c, s.raiseIllegal_cmp c,
    fun herr => ?first, fun herr => ?later, s.raiseIllegal_responses c, s.raiseIllegal_pending c⟩
  all_goals simp [herr]

/-! ### The primitive commands -/

/-- Settles O17: the command is one write of `X` and LEN. -/
theorem init128StartsFold : Obligations.Init128StartsFold :=
  ⟨decode_word_fields .init128 rfl, fun s => ⟨_, exec_init128 s, rfl, rfl, s.afterMixer128_one_keeps _ _⟩⟩

/-- Settles O18, from the fold step as a number. -/
theorem foldbFoldsAndCounts : Obligations.FoldbFoldsAndCounts :=
  ⟨fun b => decode_word_fields (.foldb b) rfl, fun b s =>
    ⟨_, exec_foldb b s, foldStep_toNat s.x b, BitVec.toNat_add s.len 1, s.afterMixer128_one_keeps _ _⟩⟩

/-- Settles O19: the mask as the rule writes it, for a short length, and in its high half. -/
theorem lenbindBindsLength : Obligations.LenbindBindsLength := by
  refine ⟨decode_word_fields .lenbind rfl, fun s => ?bound, lenbind_zero, lenbind_lenbind⟩
  case bound =>
    have hhigh : (lenbind s.x s.len).toNat / 2 ^ 64 =
        (s.x.toNat / 2 ^ 64) ^^^ ((s.len.toNat % 2 ^ 64) ^^^ (s.len.toNat / 2 ^ 64)) := by
      rw [← hi64_toNat, hi64_lenbind, BitVec.toNat_xor, BitVec.toNat_xor, hi64_toNat, lo64_toNat, hi64_toNat]
    exact ⟨_, exec_lenbind s, lenbind_toNat s.x s.len, rfl, lenbind_toNat_of_lt s.x, hhigh, s.afterMixer128_one_keeps _ _⟩

/-- Settles O20: a legal amount rotates, and any other is reported by the decoder and taken by the command. -/
theorem rotl128RotatesLeft : Obligations.Rotl128RotatesLeft := by
  refine ⟨fun r d h1 h127 => ?decoded, fun w d hop himm => ?refused, fun r s h1 h127 => ?rotated, fun r s hbad => ?taken,
    fun x r => rotl128_rotl128_sub x⟩
  case decoded => exact decode_word_fields (.rotl128 r) ((rotAmountOk_iff r).mpr ⟨h1, h127⟩) d
  case refused =>
    have hrow : rowOf (fieldsOf w).opcode.toNat = some encodingTable[16] := by rw [hop]; rfl
    have hreserved : (FieldUse.range 1 127).reserved (fieldsOf w).imm8.toNat = true := by
      simp only [FieldUse.reserved, decide_eq_true_eq]
      omega
    exact decode_eq_error_imm hrow hreserved d
  case rotated =>
    exact ⟨_, exec_rotl128 ((rotAmountOk_iff r).mpr ⟨h1, h127⟩) s,
      fun i hi => getLsbD_rotl128 s.x (Nat.lt_succ_of_le h127) hi, rotl128_toNat s.x r.toNat, rfl,
      s.afterMixer128_one_keeps _ _⟩
  case taken =>
    have hamount : rotAmountOk r = false := by
      rw [Bool.eq_false_iff, ne_eq, rotAmountOk_iff]
      omega
    exact ⟨_, exec_rotl128_illegal hamount s, takesIllegal_raiseIllegal .imm s⟩

/-- Settles O21, from the product modulo 2^128. -/
theorem mulk128MultipliesByConstant : Obligations.Mulk128MultipliesByConstant := by
  refine ⟨fun k => decode_word_fields (.mulk128 k) rfl, fun w d hop hlsel => ?refused, fun k s =>
    ⟨_, exec_mulk128 k s, ?product, rfl, s.afterMixer128_one_keeps _ _⟩⟩
  case refused =>
    have hrow : rowOf (fieldsOf w).opcode.toNat = some encodingTable[17] := by rw [hop]; rfl
    exact decode_eq_error_lsel hrow ((KIdx.ofSel_eq_none_iff_reserved _).mp ((KIdx.ofSel_eq_none _).mpr hlsel)) d
  case product =>
    rw [State.afterMixer128_x, mulk128_toNat]
    cases k <;> rfl

/-- Settles O22: the halves as numbers, and the map that undoes the mixing. -/
theorem hlmix128MixesHalves : Obligations.Hlmix128MixesHalves :=
  ⟨decode_word_fields .hlmix128 rfl, fun s =>
    ⟨_, exec_hlmix128 s, hlmix_toNat s.x, rfl, s.afterMixer128_one_keeps _ _⟩, hlmix_bijective⟩

/-- Settles O23: a legal amount shifts, and any other is reported by the decoder and taken by the command. -/
theorem xshr128XorsShifted : Obligations.Xshr128XorsShifted := by
  refine ⟨fun n d h127 => ?decoded, fun w d hop himm => ?refused, fun n s h127 => ?shifted, fun n s hbad => ?taken⟩
  case decoded => exact decode_word_fields (.xshr128 n) ((shiftAmountOk_iff n).mpr h127) d
  case refused =>
    have hrow : rowOf (fieldsOf w).opcode.toNat = some encodingTable[19] := by rw [hop]; rfl
    have hreserved : (FieldUse.range 0 127).reserved (fieldsOf w).imm8.toNat = true := by
      simp only [FieldUse.reserved, decide_eq_true_eq]
      omega
    exact decode_eq_error_imm hrow hreserved d
  case shifted =>
    have hzero : n = 0 → xshr s.x n.toNat = 0 := by
      rintro rfl
      exact xshr_amount_zero s.x
    exact ⟨_, exec_xshr128 ((shiftAmountOk_iff n).mpr h127) s, xshr_toNat s.x n.toNat, hzero, xshr_toNat_div_of_le s.x, rfl,
      s.afterMixer128_one_keeps _ _⟩
  case taken =>
    have hamount : shiftAmountOk n = false := by
      rw [Bool.eq_false_iff, ne_eq, shiftAmountOk_iff]
      omega
    exact ⟨_, exec_xshr128_illegal hamount s, takesIllegal_raiseIllegal .imm s⟩

/-! ### MIX128 and its ten commands (R135) -/

/-- Each of the ten commands is one stage of `mix128`. -/
theorem execAll_mix128Primitives (s : State) :
    execAll mix128Primitives s = .next (s.afterMixer128 10 (mix128 Config.params s.x) s.len) := by
  have hrot13 : rotAmountOk 13 = true := rfl
  have hrot29 : rotAmountOk 29 = true := rfl
  have hshift37 : shiftAmountOk 37 = true := rfl
  have hshift67 : shiftAmountOk 67 = true := rfl
  have hshift41 : shiftAmountOk 41 = true := rfl
  simp only [mix128Primitives, execAll, exec_mulk128, exec_rotl128 hrot13, exec_rotl128 hrot29, exec_hlmix128,
    exec_xshr128 hshift37, exec_xshr128 hshift67, exec_xshr128 hshift41, State.afterMixer128_afterMixer128,
    State.afterMixer128_x, State.afterMixer128_len]
  rfl

/-- Settles O24: the one and the ten leave the same `X`, and the block but `X` as it was. -/
theorem mix128EqualsTenCommands : Obligations.Mix128EqualsTenCommands := by
  refine ⟨decode_word_fields .mix128 rfl, fun s => ⟨_, _, exec_mix128 s, execAll_mix128Primitives s, ?same, rfl, rfl,
    s.afterMixer128_one_keeps _ _⟩⟩
  case same => exact ⟨fun r => by cases r <;> rfl, ⟨rfl, rfl⟩, rfl, rfl, rfl, rfl⟩

/-! ### Folding a string and the digest (R136, R137) -/

/-- Commands of two lists run one list after the other. -/
theorem execAll_append {is : List Instr} {s t : State} (h : execAll is s = .next t) (js : List Instr) :
    execAll (is ++ js) s = execAll js t := by
  induction is generalizing s with
  | nil =>
    cases h
    rfl
  | cons i is ih =>
    obtain ⟨u, hexec, htail⟩ := execAll_cons_eq_next h
    rw [List.cons_append, execAll_cons hexec, ih htail]

/-- One FOLDB a byte folds the string and counts its bytes. -/
theorem execAll_foldb (bs : List Byte) (s : State) :
    execAll (bs.map .foldb) s =
      .next (s.afterMixer128 bs.length (bs.foldl foldStep s.x) (s.len + BitVec.ofNat 128 bs.length)) := by
  induction bs generalizing s with
  | nil => simp [execAll, State.afterMixer128, State.setX, State.setLen]
  | cons b bs ih =>
    have hlen : s.len + 1 + BitVec.ofNat 128 bs.length = s.len + BitVec.ofNat 128 (bs.length + 1) := by
      rw [BitVec.add_assoc, Nat.add_comm, BitVec.ofNat_add, BitVec.ofNat_eq_ofNat]
    rw [List.map_cons, execAll_cons (exec_foldb b s), ih, State.afterMixer128_afterMixer128, State.afterMixer128_x,
      State.afterMixer128_len, hlen, Nat.add_comm, List.foldl_cons, List.length_cons]

/-- INIT128 and one FOLDB a byte leave the folded string in `X` and its length in LEN, whatever they held. -/
theorem execAll_init128_foldb (bs : List Byte) (s : State) :
    execAll (.init128 :: bs.map .foldb) s =
      .next (s.afterMixer128 (bs.length + 1) (bs.foldl foldStep Config.xInit) (BitVec.ofNat 128 bs.length)) := by
  rw [execAll_cons (exec_init128 s), execAll_foldb, State.afterMixer128_afterMixer128, State.afterMixer128_x,
    State.afterMixer128_len, BitVec.ofNat_eq_ofNat, BitVec.zero_add, Nat.add_comm]

/-- LENBIND then binds the length (R136). -/
theorem execAll_foldString (bs : List Byte) (s : State) :
    execAll (.init128 :: bs.map .foldb ++ [.lenbind]) s =
      .next (s.afterMixer128 (bs.length + 2) (foldString Config.params bs) (BitVec.ofNat 128 bs.length)) := by
  rw [execAll_append (execAll_init128_foldb bs s), execAll_cons (exec_lenbind _), execAll,
    State.afterMixer128_afterMixer128]
  rfl

/-- MIX128 then leaves the digest (R137). -/
theorem execAll_hash128Commands (bs : List Byte) (s : State) :
    execAll (hash128Commands bs) s =
      .next (s.afterMixer128 (bs.length + 3) (hash128 Config.params bs) (BitVec.ofNat 128 bs.length)) := by
  have hsplit : hash128Commands bs = (.init128 :: bs.map .foldb ++ [.lenbind]) ++ [.mix128] := by simp [hash128Commands]
  rw [hsplit, execAll_append (execAll_foldString bs s), execAll_cons (exec_mix128 _), execAll,
    State.afterMixer128_afterMixer128]
  rfl

theorem hash128Commands_length (bs : List Byte) : (hash128Commands bs).length = bs.length + 3 := by
  simp [hash128Commands]

theorem wellFormed_of_mem_hash128Commands {bs : List Byte} {i : Instr} (h : i ∈ hash128Commands bs) :
    i.wellFormed = true := by
  simp only [hash128Commands, List.cons_append, List.mem_cons, List.mem_append, List.mem_map, List.not_mem_nil,
    or_false] at h
  obtain rfl | ⟨b, -, rfl⟩ | rfl | rfl := h <;> rfl

/-- Settles O25: the commands of the fold, and its value from 0 without a wrap. -/
theorem foldStringIsFoldCommands : Obligations.FoldStringIsFoldCommands := by
  refine ⟨fun bs s => ⟨_, execAll_foldString bs s, rfl, BitVec.toNat_ofNat _ _⟩, fun bs h => ?numeral⟩
  case numeral => rw [foldl_foldStep_toNat, Nat.mod_eq_of_lt (ofDigits_bytes_lt h)]

/-- RDX reads the two halves of `X` one after the other (43_system_and_host.md R175). -/
theorem exec_rdx_hi_lo (t : State) :
    ∃ u v, exec (.rdx .hi) t = .next u ∧ AnswersOk (hi64 t.x) t u ∧
      exec (.rdx .lo) u = .next v ∧ AnswersOk (lo64 t.x) u v :=
  ⟨_, _, rfl, ⟨rfl, rfl⟩, rfl, rfl, rfl⟩

/-- Settles O26: a run over the words of `HASH128 s` is its commands, and RDX reads what they leave in `X`. -/
theorem hash128LeavesDigest : Obligations.Hash128LeavesDigest := by
  refine ⟨fun bs rest s hp => ?run, fun c => ⟨hash128_nil c, fun hzero => by rw [hash128_nil, hzero, mix128_zero]⟩⟩
  case run =>
    have hrun := core_run_issue (fun _ => wellFormed_of_mem_hash128Commands) hp (execAll_hash128Commands bs _)
    rw [hash128Commands_length] at hrun
    obtain ⟨hwide, hpos, hstatus⟩ := (s.setPending rest).afterMixer128_keeps (bs.length + 3) (hash128 Config.params bs)
      (BitVec.ofNat 128 bs.length)
    exact ⟨_, hrun, rfl, BitVec.toNat_ofNat _ _, fun r => (hwide r).trans (s.wide_setPending rest r), hpos, hstatus, rfl, rfl,
      exec_rdx_hi_lo _⟩

end Sys2Proof.Machine
end

section
/-! The pure functions of the 256-bit mixer as numbers (42_mixer256.md R152, R156 to R158): the sum stays below `P`, the carry of
step 5 is lost, and the digest of the empty string is 0. -/

namespace Sys2Proof

/-! ### Reduction under any configuration with the spec's modulus -/

/-- `reduce_mod` is the remainder modulo `P` whatever the other constants are (40_wide256.md R96 (b)). -/
theorem reduceMod_val_of_P {c : Params} (hc : c.P = Config.P) (x : Wide) :
    (reduceMod c x).val = x.val % Config.P.val := by
  rw [reduceMod, hc]
  exact reduceLoop_val Config.P_val_pos (Nat.le_refl _)

theorem reduceMod_val_lt {c : Params} (hc : c.P = Config.P) (x : Wide) : (reduceMod c x).val < Config.P.val := by
  rw [reduceMod_val_of_P hc]
  exact Nat.mod_lt _ Config.P_val_pos

/-- A value below the modulus is left as it is. -/
theorem reduceMod_of_lt {c : Params} {x : Wide} (h : x.val < c.P.val) : reduceMod c x = x := reduceLoop_of_lt h _

/-! ### One byte (R152, R156) -/

/-- Steps 1 to 4 as numbers. -/
theorem absorbTerm_val {c : Params} (hc : c.P = Config.P) (pos : BitVec 64) (b : Byte) :
    (absorbTerm c pos b).val =
      c.K.val * (b.toNat * (pos.toNat + 1) % 2 ^ 64) % 2 ^ 256 % Config.P.val ^^^ c.R.val := by
  rw [absorbTerm, xor256_val, reduceMod_val_of_P hc, muls256_val, absorbScalar, BitVec.toNat_ofNat]

/-- Steps 5 and 6 as numbers: the sum is cut to 256 bits and then reduced. -/
theorem absorb256_sum_val {c : Params} (hc : c.P = Config.P) (sum : Wide) (pos : BitVec 64) (b : Byte) :
    (absorb256 c sum pos b).sum.val =
      (sum.val + (absorb256 c sum pos b).term.val) % 2 ^ 256 % Config.P.val := by
  simp only [absorb256, reduceMod_val_of_P hc, add256_val]

theorem absorb256_sum_lt {c : Params} (hc : c.P = Config.P) (sum : Wide) (pos : BitVec 64) (b : Byte) :
    (absorb256 c sum pos b).sum.val < Config.P.val := reduceMod_val_lt hc _

theorem absorb256_pos_toNat (c : Params) (sum : Wide) (pos : BitVec 64) (b : Byte) :
    (absorb256 c sum pos b).pos.toNat = (pos.toNat + 1) % 2 ^ 64 := BitVec.toNat_add pos 1

/-- Cutting a 257-bit number to 256 bits takes `2^256`, which is `0x1000003d000000001` modulo `P` (R156). -/
theorem cut_add_complement_mod {n : Nat} (hn : 2 ^ 256 ≤ n) (hlt : n < 2 * 2 ^ 256) :
    (n % 2 ^ 256 % Config.P.val + 0x1000003d000000001) % Config.P.val = n % Config.P.val := by
  have hP := Config.P_val
  have hcut : n % 2 ^ 256 + 0x1000003d000000001 = n - Config.P.val := by omega
  rw [Nat.mod_add_mod, hcut, ← Nat.mod_eq_sub_mod (by omega)]

/-- Where the carry was dropped, the new sum lacks `2^256 - P` modulo `P` (R156). -/
theorem absorb256_sum_of_carry {c : Params} (hc : c.P = Config.P) {sum : Wide} {pos : BitVec 64} {b : Byte}
    (hcarry : 2 ^ 256 ≤ sum.val + (absorb256 c sum pos b).term.val) :
    ((absorb256 c sum pos b).sum.val + 0x1000003d000000001) % Config.P.val =
      (sum.val + (absorb256 c sum pos b).term.val) % Config.P.val := by
  have hsum := sum.val_lt
  have hterm := (absorb256 c sum pos b).term.val_lt
  rw [absorb256_sum_val hc]
  exact cut_add_complement_mod hcarry (by omega)

/-- `2^256 - P` is not 0 modulo `P`, so the new sum is then not the true modular sum (90_conflicts.md C2). -/
theorem absorb256_sum_ne_of_carry {c : Params} (hc : c.P = Config.P) {sum : Wide} {pos : BitVec 64} {b : Byte}
    (hcarry : 2 ^ 256 ≤ sum.val + (absorb256 c sum pos b).term.val) :
    (absorb256 c sum pos b).sum.val ≠ (sum.val + (absorb256 c sum pos b).term.val) % Config.P.val := by
  intro heq
  have hdiff := absorb256_sum_of_carry hc hcarry
  have hlt := absorb256_sum_lt hc sum pos b
  rw [← heq, Config.P_val] at hdiff
  rw [Config.P_val] at hlt
  omega

/-- A configuration whose `R` has every bit set, so that the term of byte 0 is the greatest wide value. -/
def allOnesR : Params where
  P := Config.P
  K := Wide.zero
  R := ⟨0xffffffffffffffff, 0xffffffffffffffff, 0xffffffffffffffff, 0xffffffffffffffff⟩
  K1 := 0
  K2 := 0
  K3 := 0
  xInit := 0

/-- Adding that term to the sum 1 carries out of limb 3. -/
theorem allOnesR_carries : 2 ^ 256 ≤ (Wide.mk 1 0 0 0).val + (absorb256 allOnesR ⟨1, 0, 0, 0⟩ 0 0).term.val := by decide

/-- Settles O30: the loss is `2^256 - P` wherever a carry is dropped, and with `R` of all ones byte 0 drops one. -/
theorem droppedCarryIsLost : Obligations.DroppedCarryIsLost := by
  refine ⟨fun c sum pos b hc => ⟨reduceMod_val_lt hc _, absorb256_sum_val hc sum pos b, absorb256_sum_of_carry hc⟩,
    allOnesR, ⟨1, 0, 0, 0⟩, 0, 0, rfl, ?below, absorb256_sum_ne_of_carry rfl allOnesR_carries⟩
  case below =>
    rw [Config.P_val]
    decide

/-! ### The bytes of a string and the digest (R157, R158) -/

/-- The loop counts the bytes from the position it starts at. -/
theorem absorbString_pos (c : Params) (sum : Wide) (pos : BitVec 64) (bs : List Byte) :
    (absorbString c sum pos bs).2 = pos + BitVec.ofNat 64 bs.length := by
  induction bs generalizing sum pos with
  | nil => simp [absorbString]
  | cons b bs ih =>
    rw [absorbString, ih, List.length_cons, Nat.add_comm, BitVec.ofNat_add, ← BitVec.add_assoc]
    rfl

theorem hash256_val_lt {c : Params} (hc : c.P = Config.P) (bs : List Byte) : (hash256 c bs).val < Config.P.val :=
  reduceMod_val_lt hc _

/-- The sum that INIT256 starts with is below `P`. -/
theorem Wide.zero_val_lt_P : Wide.zero.val < Config.P.val := Wide.val_zero ▸ Config.P_val_pos

/-- With no byte the sum stays 0, and its reduction is 0. -/
theorem hash256_nil {c : Params} (hc : c.P = Config.P) : hash256 c [] = Wide.zero :=
  reduceMod_of_lt (hc ▸ Wide.zero_val_lt_P)

theorem hexText_zero (digits : Nat) : hexText digits 0 = List.replicate digits '0' := by
  induction digits with
  | zero => rfl
  | succ digits ih =>
    rw [hexText, Nat.zero_div, ih, List.replicate_succ']
    rfl

theorem hex256_zero : hex256 Wide.zero = List.replicate 64 '0' := by
  simp [hex256, Wide.zero, hexText_zero]

/-- Settles O33: the digest is a remainder, and with no byte the remainder of 0. -/
theorem digestBelowModulus : Obligations.DigestBelowModulus := by
  refine ⟨fun c bs hc => hash256_val_lt hc bs, fun c hc => ?empty⟩
  rw [hash256_nil hc]
  exact ⟨Wide.val_zero, hex256_zero⟩

end Sys2Proof
end

section
/-! The 256-bit mixer family (42_mixer256.md): its commands, and the wide commands they equal, write `W0`, `W1` and POS alone and
answer `(OK, 0)`, so a state after any number of them is one update, and the digest follows from its composition. -/

namespace Sys2Proof.Machine

open Sys2Proof

/-! ### The state after commands of the mixer -/

/-- The state after `n` commands that executed and left `sum` in `W0`, `term` in `W1` and `pos` in POS. -/
def State.afterMixer256 (s : State) (n : Nat) (sum term : Wide) (pos : BitVec 64) : State :=
  { ((s.setWide .w0 sum).setWide .w1 term).setPos pos with
    responses := s.responses ++ List.replicate n ⟨.ok, 0⟩ }

section
variable (s : State) (n : Nat) (sum term : Wide) (pos : BitVec 64)

@[simp] theorem State.afterMixer256_w0 : (s.afterMixer256 n sum term pos).w0 = sum := rfl

@[simp] theorem State.afterMixer256_w1 : (s.afterMixer256 n sum term pos).w1 = term := rfl

@[simp] theorem State.afterMixer256_pos : (s.afterMixer256 n sum term pos).pos = pos := rfl

/-- Answers add up, and the last sum, term and position stay. -/
@[simp] theorem State.afterMixer256_afterMixer256 (m : Nat) (sum' term' : Wide) (pos' : BitVec 64) :
    (s.afterMixer256 n sum term pos).afterMixer256 m sum' term' pos' = s.afterMixer256 (n + m) sum' term' pos' := by
  simp only [State.afterMixer256, List.replicate_add, ← List.append_assoc]
  rfl

/-- Everything but `W0`, `W1` and POS is as before. -/
theorem State.afterMixer256_keeps :
    (s.afterMixer256 n sum term pos).wide .w2 = s.wide .w2 ∧ (s.afterMixer256 n sum term pos).wide .w3 = s.wide .w3 ∧
      KeepsMixer128 s (s.afterMixer256 n sum term pos) ∧ KeepsStatus s (s.afterMixer256 n sum term pos) :=
  ⟨rfl, rfl, ⟨rfl, rfl⟩, rfl, rfl, rfl⟩

theorem State.afterMixer256_one_answersOk : AnswersOk 0 s (s.afterMixer256 1 sum term pos) := ⟨rfl, rfl⟩

/-- Leaving the sum, term and position that a state holds changes no register of it. -/
theorem State.sameBlock_afterMixer256_self : SameBlock s (s.afterMixer256 n s.w0 s.w1 s.pos) :=
  ⟨fun r => by cases r <;> rfl, ⟨rfl, rfl⟩, rfl, rfl, rfl, rfl⟩

end

/-! ### What each command leaves in `W0`, `W1` and POS -/

theorem exec_init256 (s : State) : exec .init256 s = .next (s.afterMixer256 1 Wide.zero s.w1 0) := rfl

theorem exec_absorb256 (b : Byte) (s : State) :
    exec (.absorb256 b) s =
      .next (s.afterMixer256 1 (absorb256 Config.params s.w0 s.pos b).sum (absorbTerm Config.params s.pos b)
        (s.pos + 1)) := rfl

theorem exec_red256_w0 (s : State) :
    exec (.red256 .w0) s = .next (s.afterMixer256 1 (reduceMod Config.params s.w0) s.w1 s.pos) := rfl

theorem exec_muls256_w1_k (c : Limb) (s : State) :
    exec (.muls256 .w1 .k c) s = .next (s.afterMixer256 1 s.w0 (muls256 Config.params.K c) s.pos) := rfl

theorem exec_red256_w1 (s : State) :
    exec (.red256 .w1) s = .next (s.afterMixer256 1 s.w0 (reduceMod Config.params s.w1) s.pos) := rfl

theorem exec_xor256_w1_r (s : State) :
    exec (.xor256 .w1 .r) s = .next (s.afterMixer256 1 s.w0 (xor256 s.w1 Config.params.R) s.pos) := rfl

theorem exec_add256_w0_w1 (s : State) :
    exec (.add256 .w0 (.reg .w1)) s = .next (s.afterMixer256 1 (add256 s.w0 s.w1) s.w1 s.pos) := rfl

/-! ### One command (R151 to R154) -/

/-- Settles O27: the command is one write of `W0` and POS. -/
theorem init256StartsSum : Obligations.Init256StartsSum := by
  refine ⟨decode_word_fields .init256 rfl, fun s => ⟨_, exec_init256 s, Wide.val_zero, rfl, ?keepsWide, ⟨rfl, rfl⟩,
    ⟨rfl, rfl, rfl⟩, s.afterMixer256_one_answersOk _ _ _⟩⟩
  case keepsWide =>
    intro r hr
    cases r with
    | w0 => exact absurd rfl hr
    | w1 | w2 | w3 => rfl

/-- Settles O28, from the term, the sum and the position as numbers. -/
theorem absorb256AddsTerm : Obligations.Absorb256AddsTerm := by
  refine ⟨fun b => decode_word_fields (.absorb256 b) rfl, fun b s => ?_⟩
  obtain ⟨hw2, hw3, hmixer, hstatus⟩ := s.afterMixer256_keeps 1 (absorb256 Config.params s.w0 s.pos b).sum
    (absorbTerm Config.params s.pos b) (s.pos + 1)
  exact ⟨_, exec_absorb256 b s, absorbTerm_val rfl s.pos b, absorb256_sum_val rfl s.w0 s.pos b,
    absorb256_sum_lt rfl s.w0 s.pos b, absorb256_pos_toNat Config.params s.w0 s.pos b, hw2, hw3, hmixer, hstatus,
    s.afterMixer256_one_answersOk _ _ _⟩

/-- Each of the five commands is one of the steps 2 to 6, and none writes POS (R154). -/
theorem execAll_absorb256Primitives (b : Byte) (s : State) :
    execAll (absorb256Primitives (absorbScalar s.pos b)) s =
      .next (s.afterMixer256 5 (absorb256 Config.params s.w0 s.pos b).sum (absorbTerm Config.params s.pos b) s.pos) := by
  simp only [absorb256Primitives, execAll, exec_muls256_w1_k, exec_red256_w1, exec_xor256_w1_r, exec_add256_w0_w1,
    exec_red256_w0, State.afterMixer256_afterMixer256, State.afterMixer256_w0, State.afterMixer256_w1,
    State.afterMixer256_pos]
  rfl

/-- Settles O29: the one and the five leave the same sum and term. -/
theorem absorb256EqualsPrimitives : Obligations.Absorb256EqualsPrimitives := fun b s =>
  ⟨_, _, exec_absorb256 b s, execAll_absorb256Primitives b s, fun r => by cases r <;> rfl, rfl, rfl⟩

/-! ### FINAL256 (R155) -/

theorem execAll_final256 (s : State) :
    execAll final256 s = .next (s.afterMixer256 1 (reduceMod Config.params s.w0) s.w1 s.pos) := rfl

/-- FINAL256 changes no register where `W0` is below `P` already. -/
theorem execAll_final256_sameBlock {t : State} (h : t.w0.val < Config.P.val) :
    ∃ u, execAll final256 t = .next u ∧ SameBlock t u := by
  refine ⟨_, execAll_final256 t, ?_⟩
  rw [reduceMod_of_lt h]
  exact t.sameBlock_afterMixer256_self 1

/-- Settles O31: INIT256 and ABSORB256 leave `W0` below `P`, and FINAL256 reduces what is not. -/
theorem final256IsRedundant : Obligations.Final256IsRedundant := by
  refine ⟨by decide, fun s t h => ?init, fun b s t h => ?absorb, fun s => ?reduces⟩
  case init =>
    cases h
    exact execAll_final256_sameBlock Wide.zero_val_lt_P
  case absorb =>
    cases h
    exact execAll_final256_sameBlock (absorb256_sum_lt rfl s.w0 s.pos b)
  case reduces =>
    have hlt : (reduceMod Config.params s.w0).val < Config.P.val := reduceMod_val_lt rfl s.w0
    refine ⟨_, execAll_final256 s, hlt, fun hge heq => ?_⟩
    rw [← heq] at hge
    exact Nat.not_le_of_lt hlt hge

/-! ### The digest (R157) -/

/-- One ABSORB256 a byte runs the loop of `hash256`, and with no byte `W1` stays. -/
theorem execAll_absorb256 (bs : List Byte) (s : State) :
    ∃ term, (bs = [] → term = s.w1) ∧
      execAll (bs.map .absorb256) s =
        .next (s.afterMixer256 bs.length (absorbString Config.params s.w0 s.pos bs).1 term
          (absorbString Config.params s.w0 s.pos bs).2) := by
  induction bs generalizing s with
  | nil => exact ⟨s.w1, fun _ => rfl, by simp [execAll, State.afterMixer256, absorbString, State.setWide, State.setPos]⟩
  | cons b bs ih =>
    obtain ⟨term, -, htail⟩ := ih (s.afterMixer256 1 (absorb256 Config.params s.w0 s.pos b).sum
      (absorbTerm Config.params s.pos b) (s.pos + 1))
    refine ⟨term, fun h => absurd h (List.cons_ne_nil b bs), ?_⟩
    rw [List.map_cons, execAll_cons (exec_absorb256 b s), htail, State.afterMixer256_afterMixer256, Nat.add_comm]
    rfl

/-- INIT256 before the bytes and FINAL256 after them make the digest, whatever the registers held. -/
theorem execAll_hash256Commands (bs : List Byte) (s : State) :
    ∃ term, (bs = [] → term = s.w1) ∧
      execAll (hash256Commands bs) s =
        .next (s.afterMixer256 (bs.length + 2) (hash256 Config.params bs) term (BitVec.ofNat 64 bs.length)) := by
  obtain ⟨term, hnil, habsorb⟩ := execAll_absorb256 bs (s.afterMixer256 1 Wide.zero s.w1 0)
  have hinit := (execAll_cons (exec_init256 s) (bs.map .absorb256)).trans habsorb
  refine ⟨term, hnil, ?_⟩
  rw [hash256Commands, execAll_append hinit, execAll_final256]
  simp only [State.afterMixer256_afterMixer256, State.afterMixer256_w0, State.afterMixer256_w1, State.afterMixer256_pos,
    absorbString_pos, BitVec.ofNat_eq_ofNat, BitVec.zero_add, hash256]
  rw [show 1 + bs.length + 1 = bs.length + 2 by omega]

theorem hash256Commands_length (bs : List Byte) : (hash256Commands bs).length = bs.length + 2 := by
  simp [hash256Commands, final256]

theorem wellFormed_of_mem_hash256Commands {bs : List Byte} {i : Instr} (h : i ∈ hash256Commands bs) :
    i.wellFormed = true := by
  simp only [hash256Commands, final256, List.cons_append, List.mem_cons, List.mem_append, List.mem_map,
    List.not_mem_nil, or_false] at h
  obtain rfl | ⟨b, -, rfl⟩ | rfl := h <;> rfl

/-- RDW answers one limb of a wide source and changes no register (43_system_and_host.md R173). -/
theorem exec_rdw_sameBlock (a : WSrc) (l : LimbIdx) (t : State) :
    ∃ u, exec (.rdw a l) t = .next u ∧ SameBlock t u ∧ AnswersOk ((t.readSrc a).limb l) t u :=
  ⟨_, rfl, ⟨t.wide_respond _, ⟨rfl, rfl⟩, rfl, rfl, rfl, rfl⟩, rfl, rfl⟩

/-- Settles O32: a run over the words of `HASH256 s` is its commands, and RDW reads what they leave in `W0`. -/
theorem hash256LeavesDigest : Obligations.Hash256LeavesDigest := by
  intro bs rest s hp
  obtain ⟨term, hnil, hexec⟩ := execAll_hash256Commands bs (s.setPending rest)
  have hrun := core_run_issue (fun _ => wellFormed_of_mem_hash256Commands) hp hexec
  rw [hash256Commands_length] at hrun
  obtain ⟨hw2, hw3, hmixer, hstatus⟩ := (s.setPending rest).afterMixer256_keeps (bs.length + 2)
    (hash256 Config.params bs) term (BitVec.ofNat 64 bs.length)
  exact ⟨_, hrun, rfl, BitVec.toNat_ofNat _ _, hw2, hw3, hnil, hmixer, hstatus, rfl, rfl,
    fun l => exec_rdw_sameBlock (.reg .w0) l _⟩

end Sys2Proof.Machine
end

section
/-! The system commands (43_system_and_host.md R171 to R176): NOP and the three reads change no register, the two writes change
one limb or one half, and the decoder refuses their reserved and unused fields. -/

namespace Sys2Proof

/-! ### Reserved and unused fields (60_exceptions.md R204) -/

/-- A reserved source select is reported before `lsel`, `imm8` and the unused fields are checked. -/
theorem decode_eq_error_regsel_of_ra {w : BitVec 32} {r : EncRow} (hrow : rowOf (fieldsOf w).opcode.toNat = some r)
    (hra : r.ra.reserved (fieldsOf w).ra.toNat = true) (d : Limb) : decode w d = .error .regsel := by
  rw [decode_eq_error_iff, reportedCause_of_rowOf_eq_some hrow]
  simp [EncRow.cause, hra]

/-- A reserved index is reported once the wide selects have passed. -/
theorem decode_eq_error_lsel_of_selects {w : BitVec 32} {r : EncRow} (hrow : rowOf (fieldsOf w).opcode.toNat = some r)
    (hrd : r.rd.reserved (fieldsOf w).rd.toNat = false) (hra : r.ra.reserved (fieldsOf w).ra.toNat = false)
    (hrb : r.rb.reserved (fieldsOf w).rb.toNat = false) (hlsel : r.lsel.reserved (fieldsOf w).lsel.toNat = true)
    (d : Limb) : decode w d = .error .lsel := by
  rw [decode_eq_error_iff, reportedCause_of_rowOf_eq_some hrow]
  simp [EncRow.cause, hrd, hra, hrb, hlsel]

theorem FieldUse.reserved_range_zero {hi v : Nat} : (FieldUse.range 0 hi).reserved v = true ↔ hi < v := by
  simp [FieldUse.reserved]

theorem FieldUse.not_reserved_range_zero {hi v : Nat} : (FieldUse.range 0 hi).reserved v = false ↔ v ≤ hi := by
  simp [FieldUse.reserved]

/-- The row of NOP has a mask of all ones and no used field, so every other word of its opcode has an unused field that is not
zero. -/
theorem decode_eq_error_mbz_of_nop {w : BitVec 32} (hop : (fieldsOf w).opcode = 0x00) (hw : w ≠ 0) (d : Limb) :
    decode w d = .error .mbz := by
  have hrow : rowOf (fieldsOf w).opcode.toNat = some encodingTable[0] := by rw [hop]; rfl
  obtain ⟨hmem, hopcode⟩ := rowOf_eq_some_iff.mp hrow
  have hmask : w &&& encodingTable[0].mask = w := BitVec.and_allOnes
  have hnonzero : encodingTable[0].anyNonzero (fieldsOf w) = true := by
    by_contra hzero
    exact hw (hmask.symm.trans ((EncRow.and_mask_eq_pattern_iff hmem w).mpr ⟨hopcode, Bool.eq_false_iff.mpr hzero⟩))
  rw [decode_eq_error_iff, reportedCause_of_rowOf_eq_some hrow, EncRow.cause, hnonzero]
  rfl

end Sys2Proof

namespace Sys2Proof.Machine

open Sys2Proof

/-! ### Commands that only answer -/

/-- A command whose meaning is to answer keeps the whole block. -/
theorem exec_of_done {i : Instr} {s : State} {q : BitVec 64} (h : exec i s = s.done q) :
    ∃ t, exec i s = .next t ∧ SameBlock s t ∧ AnswersOk q s t :=
  ⟨_, h, ⟨s.wide_respond q, ⟨rfl, rfl⟩, rfl, rfl, rfl, rfl⟩, rfl, rfl⟩

/-- The same, for an answer whose value is known as a number. -/
theorem exec_of_done_toNat {i : Instr} {s : State} {q : BitVec 64} {n : Nat} (h : exec i s = s.done q) (hq : q.toNat = n) :
    ∃ t q, exec i s = .next t ∧ SameBlock s t ∧ AnswersOk q s t ∧ q.toNat = n := by
  obtain ⟨t, hexec, hsame, hanswers⟩ := exec_of_done h
  exact ⟨t, q, hexec, hsame, hanswers, hq⟩

/-- Settles O1: the only word with no nonzero field is 0, and NOP is an answer alone. -/
theorem nopOnlyAnswers : Obligations.NopOnlyAnswers :=
  ⟨decode_word_fields .nop rfl, fun _ d hop hw => decode_eq_error_mbz_of_nop hop hw d, fun _ => exec_of_done rfl⟩

/-- Settles O3: a read of each source, and `P` read limb by limb. -/
theorem rdwReadsOneLimb : Obligations.RdwReadsOneLimb := by
  have hrow : ∀ w, (fieldsOf w).opcode = 0x02 → rowOf (fieldsOf w).opcode.toNat = some encodingTable[2] := by
    intro w hop
    rw [hop]
    rfl
  refine ⟨fun ra l => decode_word_fields (.rdw ra l) rfl, fun w d hop hra => ?reservedRa,
    fun w d hop hra hlsel => ?reservedLsel, fun r => exec_rdw_sameBlock (.reg r), exec_rdw_sameBlock .k,
    exec_rdw_sameBlock .r, exec_rdw_sameBlock .p .i0, exec_rdw_sameBlock .p .i1, exec_rdw_sameBlock .p .i2,
    exec_rdw_sameBlock .p .i3⟩
  case reservedRa => exact decode_eq_error_regsel_of_ra (hrow w hop) (FieldUse.reserved_range_zero.mpr hra) d
  case reservedLsel =>
    exact decode_eq_error_lsel_of_selects (hrow w hop) rfl (FieldUse.not_reserved_range_zero.mpr hra) rfl
      (FieldUse.reserved_range_zero.mpr hlsel) d

theorem readHalf_lo_toNat (x : Word128) : (readHalf x .lo).toNat = x.toNat % 2 ^ 64 := lo64_toNat x

theorem readHalf_hi_toNat (x : Word128) : (readHalf x .hi).toNat = x.toNat / 2 ^ 64 := hi64_toNat x

/-- Settles O5, from the halves as numbers. -/
theorem rdxReadsOneHalf : Obligations.RdxReadsOneHalf := by
  refine ⟨fun h => decode_word_fields (.rdx h) rfl, fun w d hop hlsel => ?refused,
    fun s => exec_of_done_toNat rfl (readHalf_lo_toNat s.x), fun s => exec_of_done_toNat rfl (readHalf_hi_toNat s.x)⟩
  have hrow : rowOf (fieldsOf w).opcode.toNat = some encodingTable[4] := by rw [hop]; rfl
  exact decode_eq_error_lsel hrow (FieldUse.reserved_range_zero.mpr hlsel) d

/-- STATUS as a number: the fields at their places in the layout of 10_state.md R32. -/
theorem State.statusWord_toNat (s : State) :
    s.statusWord.toNat = s.cmp.toNat + 4 * s.err.toNat + 16 * s.ecode.toNat := by
  simp only [State.statusWord, toNat_append_eq_add, BitVec.toNat_ofBool, BitVec.ofNat_eq_ofNat, BitVec.toNat_zero]
  omega

/-- Settles O6, from the layout of STATUS and the halves of LEN as numbers. -/
theorem rdsReadsStatusAndCounters : Obligations.RdsReadsStatusAndCounters := by
  refine ⟨fun i => decode_word_fields (.rds i) rfl, fun w d hop hlsel => ?refused,
    fun s => exec_of_done_toNat rfl s.statusWord_toNat, fun s => exec_of_done rfl,
    fun s => exec_of_done_toNat rfl (lo64_toNat s.len), fun s => exec_of_done_toNat rfl (hi64_toNat s.len)⟩
  have hrow : rowOf (fieldsOf w).opcode.toNat = some encodingTable[5] := by rw [hop]; rfl
  exact decode_eq_error_lsel hrow (FieldUse.reserved_range_zero.mpr hlsel) d

/-! ### Commands that write one limb or one half -/

/-- Settles O2: one write of the register, with one limb replaced. -/
theorem wrwWritesOneLimb : Obligations.WrwWritesOneLimb := by
  have hrow : ∀ w, (fieldsOf w).opcode = 0x01 → rowOf (fieldsOf w).opcode.toNat = some encodingTable[1] := by
    intro w hop
    rw [hop]
    rfl
  refine ⟨fun rd l d => decode_word_fields (.wrw rd l d) rfl d, fun w d hop hrd => ?reservedRd,
    fun w d hop hrd hlsel => ?reservedLsel, fun rd l d s => ?written⟩
  case reservedRd => exact decode_eq_error_regsel_of_rd (hrow w hop) (FieldUse.reserved_range_zero.mpr hrd) d
  case reservedLsel =>
    exact decode_eq_error_lsel_of_selects (hrow w hop) (FieldUse.not_reserved_range_zero.mpr hrd) rfl rfl
      (FieldUse.reserved_range_zero.mpr hlsel) d
  case written =>
    obtain ⟨t, hexec, hwide, hkeeps⟩ := exec_of_setWide (i := .wrw rd l d) (s := s) rfl
    exact ⟨t, hexec, by rw [hwide, Wide.setLimb_limb_same], fun j hj => by rw [hwide, Wide.setLimb_limb_other _ _ _ _ hj],
      hkeeps⟩

theorem writeHalf_lo_toNat (x : Word128) (d : Limb) :
    (writeHalf x d .lo).toNat = x.toNat / 2 ^ 64 * 2 ^ 64 + d.toNat := by
  rw [writeHalf, join64_toNat, hi64_toNat]

theorem writeHalf_hi_toNat (x : Word128) (d : Limb) :
    (writeHalf x d .hi).toNat = d.toNat * 2 ^ 64 + x.toNat % 2 ^ 64 := by
  rw [writeHalf, join64_toNat, lo64_toNat]

/-- WRX, like a command of the 128-bit mixer, writes `X` and answers `(OK, 0)`; it leaves LEN as it is. -/
theorem exec_wrx (h : Half) (d : Limb) (s : State) :
    exec (.wrx h d) s = .next (s.afterMixer128 1 (writeHalf s.x d h) s.len) := rfl

/-- Settles O4, from `X` with one half replaced as a number. -/
theorem wrxWritesOneHalf : Obligations.WrxWritesOneHalf := by
  refine ⟨fun h d => decode_word_fields (.wrx h d) rfl d, fun w d hop hlsel => ?refused,
    fun d s => ⟨_, exec_wrx .lo d s, writeHalf_lo_toNat s.x d, rfl, s.afterMixer128_one_keeps _ _⟩,
    fun d s => ⟨_, exec_wrx .hi d s, writeHalf_hi_toNat s.x d, rfl, s.afterMixer128_one_keeps _ _⟩⟩
  have hrow : rowOf (fieldsOf w).opcode.toNat = some encodingTable[3] := by rw [hop]; rfl
  exact decode_eq_error_lsel hrow (FieldUse.reserved_range_zero.mpr hlsel) d

end Sys2Proof.Machine
end

section
/-! The two pipelines side by side (43_system_and_host.md R185): a mixer reads no register but those it writes, and the other
mixer touches none of them. -/

namespace Sys2Proof.Machine

open Sys2Proof

/-- What a legal command of the 128-bit mixer leaves in `X` and LEN is a function of these two alone. -/
theorem exec_mixer128_local {i : Instr} (hi : i.inMixer128 = true) (hwf : i.wellFormed = true) :
    ∃ x len : Word128 → Word128 → Word128, ∀ s,
      exec i s = .next (s.afterMixer128 1 (x s.x s.len) (len s.x s.len)) := by
  cases i with
  | init128 => exact ⟨fun _ _ => Config.xInit, fun _ _ => 0, exec_init128⟩
  | foldb b => exact ⟨fun x _ => foldStep x b, fun _ len => len + 1, exec_foldb b⟩
  | lenbind => exact ⟨lenbind, fun _ len => len, exec_lenbind⟩
  | rotl128 r => exact ⟨fun x _ => rotl128 x r.toNat, fun _ len => len, exec_rotl128 hwf⟩
  | mulk128 k => exact ⟨fun x _ => mulk128 Config.params k x, fun _ len => len, exec_mulk128 k⟩
  | hlmix128 => exact ⟨fun x _ => hlmix x, fun _ len => len, exec_hlmix128⟩
  | xshr128 n => exact ⟨fun x _ => xshr x n.toNat, fun _ len => len, exec_xshr128 hwf⟩
  | mix128 => exact ⟨fun x _ => mix128 Config.params x, fun _ len => len, exec_mix128⟩
  | _ => cases hi

/-- What a command of the 256-bit mixer leaves in `W0`, `W1` and POS is a function of these three alone. -/
theorem exec_mixer256_local {j : Instr} (hj : j.inMixer256 = true) :
    ∃ (sum term : Wide → Wide → BitVec 64 → Wide) (pos : BitVec 64 → BitVec 64), ∀ s,
      exec j s = .next (s.afterMixer256 1 (sum s.w0 s.w1 s.pos) (term s.w0 s.w1 s.pos) (pos s.pos)) := by
  cases j with
  | init256 => exact ⟨fun _ _ _ => Wide.zero, fun _ term _ => term, fun _ => 0, exec_init256⟩
  | absorb256 b =>
    exact ⟨fun sum _ pos => (absorb256 Config.params sum pos b).sum, fun _ _ pos => absorbTerm Config.params pos b,
      fun pos => pos + 1, exec_absorb256 b⟩
  | _ => cases hj

/-- Updates of the two pipelines' registers leave the same block in either order. -/
theorem State.sameBlock_afterMixer_comm (s : State) (m n : Nat) (x len : Word128) (sum term : Wide) (pos : BitVec 64) :
    SameBlock ((s.afterMixer128 m x len).afterMixer256 n sum term pos)
      ((s.afterMixer256 n sum term pos).afterMixer128 m x len) :=
  ⟨fun r => by cases r <;> rfl, ⟨rfl, rfl⟩, rfl, rfl, rfl, rfl⟩

/-- Settles O53: each command finds its own registers as they were, whichever goes first. -/
theorem pipelinesCommute : Obligations.PipelinesCommute := by
  intro i j s hi hwf hj
  obtain ⟨x, len, hexec128⟩ := exec_mixer128_local hi hwf
  obtain ⟨sum, term, pos, hexec256⟩ := exec_mixer256_local hj
  exact ⟨_, _, (execAll_cons (hexec128 s) _).trans (execAll_cons (hexec256 _) _),
    (execAll_cons (hexec256 s) _).trans (execAll_cons (hexec128 _) _), s.sameBlock_afterMixer_comm _ _ _ _ _ _ _⟩

end Sys2Proof.Machine
end

section
/-! The hex text of the digests (43_system_and_host.md R180, R181): one digit a place, and the four limbs of a wide value make
the text of its number. -/

namespace Sys2Proof

theorem hexText_length (digits n : Nat) : (hexText digits n).length = digits := by
  induction digits generalizing n with
  | zero => rfl
  | succ digits ih => rw [hexText, List.length_append, ih, List.length_singleton]

/-- The sixteen digits of R180. -/
theorem getElem?_hexDigits : ∀ d < 16, "0123456789abcdef".toList[d]? = some (hexDigit d) := by decide

/-- Place `digits - 1 - j` holds digit `j` of the number. -/
theorem hexText_getElem? {digits j : Nat} (hj : j < digits) (n : Nat) :
    (hexText digits n)[digits - 1 - j]? = "0123456789abcdef".toList[n / 2 ^ (4 * j) % 16]? := by
  induction digits generalizing n j with
  | zero => exact absurd hj (Nat.not_lt_zero j)
  | succ digits ih =>
    rw [hexText]
    cases j with
    | zero =>
      have hdigit : n / 2 ^ (4 * 0) % 16 = n % 16 := by rw [Nat.mul_zero, pow_zero, Nat.div_one]
      rw [hdigit, getElem?_hexDigits _ (Nat.mod_lt n (by decide)),
        List.getElem?_append_right (by simp [hexText_length]), hexText_length]
      simp
    | succ j =>
      have hj' : j < digits := Nat.lt_of_succ_lt_succ hj
      have hplace : digits + 1 - 1 - (j + 1) = digits - 1 - j := by omega
      have hweight : 2 ^ (4 * (j + 1)) = 16 * 2 ^ (4 * j) := by ring
      rw [hplace, List.getElem?_append_left (by rw [hexText_length]; omega), ih hj', hweight, Nat.div_div_eq_div_mul]

/-- Settles O57: the text is `hexText` of the value. -/
theorem hexText128Digits : Obligations.HexText128Digits :=
  fun x => ⟨hexText_length 32 x.toNat, fun _ hj => hexText_getElem? hj x.toNat⟩

/-- The text of one number after that of another is the text of their sum, the first weighted by the places of the second. -/
theorem hexText_append (a b high : Nat) {low : Nat} (hlow : low < 16 ^ b) :
    hexText a high ++ hexText b low = hexText (a + b) (low + 16 ^ b * high) := by
  induction b generalizing low with
  | zero =>
    obtain rfl : low = 0 := Nat.lt_one_iff.mp hlow
    simp [hexText]
  | succ b ih =>
    have hlt : low / 16 < 16 ^ b := Nat.div_lt_of_lt_mul (by rwa [pow_succ'] at hlow)
    have hweight : low + 16 ^ (b + 1) * high = low + 16 * (16 ^ b * high) := by rw [pow_succ', Nat.mul_assoc]
    rw [hexText, ← List.append_assoc, ih hlt, ← Nat.add_assoc, hexText, hweight, Nat.add_mul_div_left _ _ (by decide),
      Nat.add_mul_mod_self_left]

/-- The limbs' texts one after another are the text of the value: a limb is below `16 ^ 16`. -/
theorem hex256_eq_hexText (v : Wide) : hex256 v = hexText 64 v.val := by
  have hval : v.val = v.l0.toNat + 16 ^ 16 * (v.l1.toNat + 16 ^ 16 * (v.l2.toNat + 16 ^ 16 * v.l3.toNat)) := by
    rw [Wide.val]
    omega
  rw [hex256, hexText_append _ _ _ v.l2.isLt, hexText_append _ _ _ v.l1.isLt, hexText_append _ _ _ v.l0.isLt, hval]

/-- Settles O58: the text is `hexText` of the value, as for the 128-bit digest. -/
theorem hexText256IsNumeral : Obligations.HexText256IsNumeral := by
  intro v
  rw [hex256_eq_hexText]
  exact ⟨hexText_length 64 v.val, fun _ hj => hexText_getElem? hj v.val⟩

end Sys2Proof
end

section
/-! The exception (60_exceptions.md): which cause the decoder reports, what taking `IllegalCommand` does at the step, that no step
stops, and that ERR and ECODE are a record that legal commands neither write nor act on. -/

namespace Sys2Proof

/-- Settles O36, from the cause that the table gives for a word. -/
theorem reportedCauseFollowsPriority : Obligations.ReportedCauseFollowsPriority := fun _ _ _ => decode_eq_error_iff

end Sys2Proof

namespace Sys2Proof.Machine

open Sys2Proof

/-! ### A step that takes an illegal word -/

/-- A step that takes an illegal word from the port raises `IllegalCommand` with the decoder's code, before anything else
(60_exceptions.md R201, R203). -/
theorem step_command_of_decode_error {s : State} {w : BitVec 32} {d : Limb} {rest : List HostAction} {c : ECode}
    (hp : s.pending = .command w d :: rest) (hd : decode w d = .error c) :
    step s = .next ((s.setPending rest).raiseIllegal c) := by
  rw [step_cons s _ rest hp, runAction, runCommand, hd]

/-- Settles O42: the step raises the cause, and raising it has the effects of R203 alone. -/
theorem illegalWordIsTaken : Obligations.IllegalWordIsTaken := by
  intro s w d rest c hp hd
  exact ⟨_, step_command_of_decode_error hp hd, takesIllegal_raiseIllegal c _⟩

/-! ### Every step has a next state -/

/-- Every command has a next state and answers once, decoded or not (20_memory.md R58, 60_exceptions.md R203). -/
theorem exec_answers_once (i : Instr) (s : State) :
    ∃ t, exec i s = .next t ∧ ∃ r, t.responses = s.responses ++ [r] := by
  cases i with
  | rotl128 r =>
    cases hr : rotAmountOk r with
    | true => exact ⟨_, exec_rotl128 hr s, _, rfl⟩
    | false => exact ⟨_, exec_rotl128_illegal hr s, _, s.raiseIllegal_responses .imm⟩
  | xshr128 n =>
    cases hn : shiftAmountOk n with
    | true => exact ⟨_, exec_xshr128 hn s, _, rfl⟩
    | false => exact ⟨_, exec_xshr128_illegal hn s, _, s.raiseIllegal_responses .imm⟩
  | wrw | add256 | sub256 | red256 | muls256 | mulw256 | xor256 =>
    exact ⟨_, rfl, ⟨.ok, 0⟩, by rw [State.respond_responses, State.setWide_responses]⟩
  | nop | rdw | wrx | rdx | rds | cmp256 | init128 | foldb | lenbind | mulk128 | hlmix128 | mix128 | init256 | absorb256 =>
    exact ⟨_, rfl, _, rfl⟩

/-- A step takes the host's next action from the port and nothing more. -/
theorem step_pending {s t : State} (h : step s = .next t) : t.pending = s.pending.tail := by
  obtain ⟨hp, rfl⟩ | ⟨draw, rest, hp, rfl⟩ | ⟨w, d, rest, i, hp, -, hexec⟩ | ⟨w, d, rest, c, hp, -, rfl⟩ := step_cases h
  · rw [hp, List.tail_nil]
  · rw [hp]
    rfl
  · rw [exec_pending hexec, hp]
    rfl
  · rw [State.raiseIllegal_pending, hp]
    rfl

/-- Nothing stops a step: it holds the state, resets, executes a command or raises `IllegalCommand`, and of these the last two
answer, once each. -/
theorem step_answers_at_most_once (s : State) :
    ∃ t, step s = .next t ∧ (t.responses = s.responses ∨ ∃ r, t.responses = s.responses ++ [r]) := by
  cases hp : s.pending with
  | nil => exact ⟨s, step_nil s hp, .inl rfl⟩
  | cons a rest =>
    cases a with
    | reset draw => exact ⟨_, step_reset hp, .inl rfl⟩
    | command w d =>
      cases hd : decode w d with
      | ok i =>
        obtain ⟨t, hexec, hanswer⟩ := exec_answers_once i (s.setPending rest)
        exact ⟨t, (step_command_of_decode_ok hp hd).trans hexec, .inr hanswer⟩
      | error c =>
        exact ⟨_, step_command_of_decode_error hp hd, .inr ⟨_, (s.setPending rest).raiseIllegal_responses c⟩⟩

/-- Settles O45: each step's next state, what it takes from the port and how it answers; and the step with nothing pending. -/
theorem everyStepHasNextState : Obligations.EveryStepHasNextState := by
  refine ⟨fun s => ?_, step_nil⟩
  obtain ⟨t, hstep, hanswer⟩ := step_answers_at_most_once s
  exact ⟨t, hstep, step_pending hstep, hanswer⟩

/-! ### The first cause stays -/

/-- A legal command changes neither ERR nor ECODE (60_exceptions.md R206): only an illegal amount raises a cause. -/
theorem exec_keepsFault {i : Instr} {s t : State} (hwf : i.wellFormed = true) (h : exec i s = .next t) :
    t.err = s.err ∧ t.ecode = s.ecode := by
  obtain ⟨-, herr, hecode⟩ | ⟨-, -, herr, hecode⟩ | ⟨hbad, -⟩ := exec_status_cases h
  · exact ⟨herr, hecode⟩
  · exact ⟨herr, hecode⟩
  · cases hwf.symm.trans hbad

/-- Raising a cause after the first leaves ERR and ECODE alone (60_exceptions.md R203). -/
theorem State.raiseIllegal_keepsFault {s : State} (herr : s.err = true) (c : ECode) :
    (s.raiseIllegal c).err = true ∧ (s.raiseIllegal c).ecode = s.ecode := by
  simp [herr]

/-- A step that takes no reset keeps the first cause. -/
theorem step_keepsFirstCause {s t : State} (herr : s.err = true) (hreset : ∀ a ∈ s.pending, a.isReset = false)
    (h : step s = .next t) : t.err = true ∧ t.ecode = s.ecode := by
  obtain ⟨-, rfl⟩ | ⟨draw, rest, hp, -⟩ | ⟨w, d, rest, i, -, hd, hexec⟩ | ⟨w, d, rest, c, -, -, rfl⟩ := step_cases h
  · exact ⟨herr, rfl⟩
  · have hno : (HostAction.reset draw).isReset = false := hreset _ (hp ▸ List.mem_cons_self)
    cases hno
  · obtain ⟨hkeepErr, hkeepEcode⟩ := exec_keepsFault (wellFormed_of_decode hd) hexec
    exact ⟨hkeepErr.trans herr, hkeepEcode⟩
  · exact State.raiseIllegal_keepsFault (s := s.setPending rest) herr c

/-- A run over actions without a reset keeps the first cause, however long it is. -/
theorem core_run_keepsFirstCause {n : Nat} {s t : State} (herr : s.err = true)
    (hreset : ∀ a ∈ s.pending, a.isReset = false) (h : core.run n s = .next t) : t.err = true ∧ t.ecode = s.ecode := by
  induction n generalizing s with
  | zero =>
    cases h
    exact ⟨herr, rfl⟩
  | succ n ih =>
    obtain ⟨u, hstep, -⟩ := step_answers_at_most_once s
    obtain ⟨herrU, hecodeU⟩ := step_keepsFirstCause herr hreset hstep
    have hresetU : ∀ a ∈ u.pending, a.isReset = false := fun a ha =>
      hreset a (List.mem_of_mem_tail (step_pending hstep ▸ ha))
    rw [core_run_succ n hstep] at h
    obtain ⟨herrT, hecodeT⟩ := ih herrU hresetU h
    exact ⟨herrT, hecodeT.trans hecodeU⟩

/-- Settles O48, from the run without a reset and the legal command. -/
theorem firstCauseStaysUntilReset : Obligations.FirstCauseStaysUntilReset :=
  ⟨fun _ _ _ => core_run_keepsFirstCause, fun _ _ _ => exec_keepsFault⟩

/-! ### ERR is a record, not a mode -/

/-- The state with other values in ERR and ECODE. -/
def State.withFault (s : State) (e : Bool) (c : BitVec 4) : State := { s with err := e, ecode := c }

section
variable (s : State) (e : Bool) (c : BitVec 4)

@[simp] theorem State.wide_withFault (r : WReg) : (s.withFault e c).wide r = s.wide r := by
  cases r <;> rfl

theorem State.readSrc_withFault (a : WSrc) : (s.withFault e c).readSrc a = s.readSrc a :=
  State.readSrc_congr _ _ (s.wide_withFault e c) a

theorem State.setWide_withFault (d : WReg) (v : Wide) :
    (s.withFault e c).setWide d v = (s.setWide d v).withFault e c := by
  cases d <;> rfl

theorem State.sameRegisters_withFault : SameRegisters s (s.withFault e c) :=
  ⟨s.wide_withFault e c, ⟨rfl, rfl⟩, rfl, rfl⟩

/-- RDS reads ERR and ECODE at index 0 alone (10_state.md R36). -/
theorem State.readStatus_withFault {idx : StatusIdx} (h : idx ≠ .status) :
    (s.withFault e c).readStatus idx = s.readStatus idx := by
  cases idx with
  | status => exact absurd rfl h
  | pos | lenLo | lenHi => rfl

end

/-- A legal command other than RDS of STATUS does the same whatever ERR and ECODE hold, and leaves them as they are. -/
theorem exec_withFault {i : Instr} {s t : State} (hwf : i.wellFormed = true) (hi : i ≠ .rds .status)
    (h : exec i s = .next t) (e : Bool) (c : BitVec 4) : exec i (s.withFault e c) = .next (t.withFault e c) := by
  cases i with
  | rds idx =>
    have hidx : idx ≠ .status := fun hstatus => hi (congrArg Instr.rds hstatus)
    cases h
    simp only [exec, execRds, State.readStatus_withFault s e c hidx]
    rfl
  | rotl128 r =>
    cases (exec_rotl128 hwf s).symm.trans h
    exact exec_rotl128 hwf _
  | xshr128 n =>
    cases (exec_xshr128 hwf s).symm.trans h
    exact exec_xshr128 hwf _
  | rdw | cmp256 =>
    cases h
    simp only [exec, execRdw, execCmp256, State.readSrc_withFault]
    rfl
  | wrw | add256 | sub256 | red256 | muls256 | mulw256 | xor256 =>
    cases h
    simp only [exec, execWrw, execAdd256, execSub256, execRed256, execMuls256, execMulw256, execXor256,
      State.wide_withFault, State.readSrc_withFault, State.setWide_withFault]
    rfl
  | nop | wrx | rdx | init128 | foldb | lenbind | mulk128 | hlmix128 | mix128 | init256 | absorb256 =>
    cases h
    rfl

/-- RDS of STATUS, the one command that reads ERR and ECODE, changes no register whatever they hold. -/
theorem exec_rds_status_sameRegisters (s : State) (e : Bool) (c : BitVec 4) :
    ∃ t u, exec (.rds .status) s = .next t ∧ exec (.rds .status) (s.withFault e c) = .next u ∧ SameRegisters t u :=
  ⟨_, _, rfl, rfl, fun r => by simp, ⟨rfl, rfl⟩, rfl, rfl⟩

/-- Settles O49: RDS of STATUS changes no register, and every other command commutes with the change of ERR and ECODE. -/
theorem errIsARecordNotAMode : Obligations.ErrIsARecordNotAMode := by
  intro i s e c hwf
  by_cases hi : i = .rds .status
  · subst hi
    obtain ⟨t, u, ht, hu, hsame⟩ := exec_rds_status_sameRegisters s e c
    exact ⟨t, u, ht, hu, hsame, fun hne => absurd rfl hne⟩
  · obtain ⟨t, ht, -⟩ := exec_answers_once i s
    exact ⟨t, t.withFault e c, ht, exec_withFault hwf hi ht e c, t.sameRegisters_withFault e c, fun _ => rfl⟩

end Sys2Proof.Machine
end

section
/-! Independence from history (70_reset_and_hazards.md R229): a run over the host's actions, reset-free, does to a pipeline's
registers what the commands among them that write these registers do alone, from any state. -/

namespace Sys2Proof

/-- The commands that write POS write `W0` too (10_state.md R31). -/
theorem Instr.inMixer256_of_not_writesMixer256 {i : Instr} (h : i.writesMixer256 = false) : i.inMixer256 = false := by
  cases i with
  | init256 | absorb256 => cases h
  | _ => rfl

end Sys2Proof

namespace Sys2Proof.Machine

open Sys2Proof

/-! ### The legal command of an action -/

theorem HostAction.legal_of_decode_ok {w : BitVec 32} {d : Limb} {i : Instr} (h : decode w d = .ok i) :
    (HostAction.command w d).legal = some i := by rw [HostAction.legal, h, Except.toOption]

/-- The host issues a legal command by a word that the decoder accepts (30_encoding.md R67). -/
theorem HostAction.legal_eq_some_iff {a : HostAction} {i : Instr} :
    a.legal = some i ↔ ∃ w d, a = .command w d ∧ decode w d = .ok i := by
  refine ⟨fun h => ?accepted, fun ⟨_, _, ha, hd⟩ => ha ▸ legal_of_decode_ok hd⟩
  case accepted =>
    cases a with
    | reset draw => cases h
    | command w d =>
      cases hd : decode w d with
      | ok j => exact ⟨w, d, rfl, hd.trans (congrArg _ (Option.some.inj ((legal_of_decode_ok hd).symm.trans h)))⟩
      | error c =>
        rw [HostAction.legal, hd] at h
        cases h

/-! ### The registers of a pipeline and their writers -/

/-- The registers that a pipeline works on, seen as one value, and the commands that write them. -/
structure Pipeline (α : Type) where
  view : State → α
  writes : Instr → Bool
  /-- ERR, ECODE and the host port are no part of the pipeline. -/
  view_of_sameRegisters : ∀ {s t}, SameRegisters s t → view t = view s
  /-- A command that is not a writer keeps the pipeline's registers. -/
  view_of_exec : ∀ {i s t}, exec i s = .next t → writes i = false → view t = view s

/-- `X` and LEN (41_mixer128.md R120). -/
def pipeline128 : Pipeline (Word128 × Word128) where
  view s := (s.x, s.len)
  writes := Instr.writesMixer128
  view_of_sameRegisters := fun ⟨_, ⟨hx, hlen⟩, _⟩ => Prod.ext hx hlen
  view_of_exec h hi := by
    obtain ⟨hx, hlen⟩ := exec_keepsMixer128 h hi
    exact Prod.ext hx hlen

/-- `W0` and POS (42_mixer256.md R150). -/
def pipeline256 : Pipeline (Wide × BitVec 64) where
  view s := (s.wide .w0, s.pos)
  writes := Instr.writesMixer256
  view_of_sameRegisters := fun ⟨hwide, _, hpos, _⟩ => Prod.ext (hwide .w0) hpos
  view_of_exec h hi := by
    have hw0 : WReg.w0 ∉ Instr.wideDests _ := fun hmem => Bool.eq_false_iff.mp hi (List.contains_iff_mem.mpr hmem)
    exact Prod.ext (exec_wide_of_notMem h hw0) (exec_keepsPos h (Instr.inMixer256_of_not_writesMixer256 hi))

namespace Pipeline

variable {α : Type} (P : Pipeline α)

/-- The legal command an action issues, where it writes the pipeline's registers. -/
def issued (a : HostAction) : Option Instr := a.legal.filter P.writes

/-- The command runs, and what it leaves in the pipeline's registers is a function of what they held. -/
def ReadsOwn (i : Instr) : Prop := ∃ f : α → α, ∀ s, ∃ t, exec i s = .next t ∧ P.view t = f (P.view s)

/-! ### One action of the host -/

theorem view_setPending (s : State) (as : List HostAction) : P.view (s.setPending as) = P.view s :=
  P.view_of_sameRegisters ⟨s.wide_setPending as, ⟨rfl, rfl⟩, rfl, rfl⟩

theorem view_raiseIllegal (s : State) (c : ECode) : P.view (s.raiseIllegal c) = P.view s := by
  obtain ⟨hwide, hmixer, hpos, hcmp, -⟩ := takesIllegal_raiseIllegal c s
  exact P.view_of_sameRegisters ⟨hwide, hmixer, hpos, hcmp⟩

/-- An illegal word, and a legal command that is not a writer, leave the pipeline's registers alone. -/
theorem step_of_issued_eq_none {a : HostAction} {rest : List HostAction} {s : State} (hreset : a.isReset = false)
    (ha : P.issued a = none) (hp : s.pending = a :: rest) :
    ∃ t, step s = .next t ∧ P.view t = P.view s ∧ t.pending = rest := by
  cases a with
  | reset draw => cases hreset
  | command w d =>
    cases hd : decode w d with
    | ok i =>
      have hi : P.writes i = false :=
        Bool.eq_false_iff.mpr (Option.filter_eq_none_iff.mp ha i (HostAction.legal_of_decode_ok hd))
      obtain ⟨t, hexec, -⟩ := exec_answers_once i (s.setPending rest)
      exact ⟨t, (step_command_of_decode_ok hp hd).trans hexec,
        (P.view_of_exec hexec hi).trans (P.view_setPending s rest), exec_pending hexec⟩
    | error c =>
      exact ⟨_, step_command_of_decode_error hp hd, (P.view_raiseIllegal _ c).trans (P.view_setPending s rest),
        State.raiseIllegal_pending _ c⟩

/-- A writer that the host issues is executed. -/
theorem step_of_issued_eq_some {a : HostAction} {rest : List HostAction} {s : State} {i : Instr}
    (ha : P.issued a = some i) (hp : s.pending = a :: rest) : step s = exec i (s.setPending rest) := by
  obtain ⟨hlegal, -⟩ := Option.filter_eq_some_iff.mp ha
  obtain ⟨w, d, rfl, hd⟩ := HostAction.legal_eq_some_iff.mp hlegal
  exact step_command_of_decode_ok hp hd

/-! ### A run -/

/-- A run over reset-free actions leaves in the pipeline's registers what the writers among them leave alone, from any state
`u` that agrees with the first on these registers. -/
theorem core_run_view {acts rest : List HostAction} {is : List Instr} {s u v : State}
    (hreset : ∀ a ∈ acts, a.isReset = false) (hown : ∀ i ∈ is, P.ReadsOwn i) (hacts : acts.filterMap P.issued = is)
    (hp : s.pending = acts ++ rest) (hview : P.view s = P.view u) (hexec : execAll is u = .next v) :
    ∃ t, core.run acts.length s = .next t ∧ P.view t = P.view v ∧ t.pending = rest := by
  induction acts generalizing s u is with
  | nil =>
    cases hacts
    cases hexec
    exact ⟨s, rfl, hview, hp⟩
  | cons a acts ih =>
    obtain ⟨hresetA, hresetTail⟩ := List.forall_mem_cons.mp hreset
    cases ha : P.issued a with
    | none =>
      obtain ⟨t, hstep, hkeep, hpt⟩ := P.step_of_issued_eq_none hresetA ha hp
      rw [List.length_cons, core_run_succ _ hstep]
      exact ih hresetTail hown (List.filterMap_cons_none ha ▸ hacts) hpt (hkeep.trans hview) hexec
    | some i =>
      rw [List.filterMap_cons_some ha] at hacts
      subst hacts
      obtain ⟨⟨f, hf⟩, hownTail⟩ := List.forall_mem_cons.mp hown
      obtain ⟨u', hexecU, htail⟩ := execAll_cons_eq_next hexec
      obtain ⟨_, hexecU', hviewU⟩ := hf u
      cases hexecU.symm.trans hexecU'
      obtain ⟨t, hexecS, hviewT⟩ := hf (s.setPending (acts ++ rest))
      have hagree : P.view t = P.view u' := by rw [hviewT, P.view_setPending, hview, hviewU]
      have hstep : step s = .next t := (P.step_of_issued_eq_some ha hp).trans hexecS
      rw [List.length_cons, core_run_succ _ hstep]
      exact ih hresetTail hownTail rfl (exec_pending hexecS) hagree htail

end Pipeline

/-! ### The two digests -/

/-- Every command of `HASH128 s` is one of the 128-bit mixer, which reads `X` and LEN alone. -/
theorem readsOwn_of_mem_hash128Commands {bs : List Byte} {i : Instr} (h : i ∈ hash128Commands bs) :
    pipeline128.ReadsOwn i := by
  have hmixer : i.inMixer128 = true := by
    simp only [hash128Commands, List.cons_append, List.mem_cons, List.mem_append, List.mem_map, List.not_mem_nil,
      or_false] at h
    obtain rfl | ⟨b, -, rfl⟩ | rfl | rfl := h <;> rfl
  obtain ⟨x, len, hexec⟩ := exec_mixer128_local hmixer (wellFormed_of_mem_hash128Commands h)
  exact ⟨fun v => (x v.1 v.2, len v.1 v.2), fun s => ⟨_, hexec s, rfl⟩⟩

/-- Settles O54: the run leaves in `X` what `HASH128 s` leaves there alone. -/
theorem digest128IndependentOfHistory : Obligations.Digest128IndependentOfHistory := by
  intro bs acts rest s hreset hacts hp
  obtain ⟨t, hrun, hview, hpending⟩ := pipeline128.core_run_view hreset (fun _ => readsOwn_of_mem_hash128Commands)
    hacts hp rfl (execAll_hash128Commands bs s)
  exact ⟨t, hrun, congrArg Prod.fst hview, hpending⟩

/-- No command of `HASH256 s` reads more of the block than `W0` and POS: `W1` is written and not read. -/
theorem readsOwn_of_mem_hash256Commands {bs : List Byte} {i : Instr} (h : i ∈ hash256Commands bs) :
    pipeline256.ReadsOwn i := by
  simp only [hash256Commands, final256, List.cons_append, List.mem_cons, List.mem_append, List.mem_map,
    List.not_mem_nil, or_false] at h
  obtain rfl | ⟨b, -, rfl⟩ | rfl := h
  · exact ⟨fun _ => (Wide.zero, 0), fun s => ⟨_, exec_init256 s, rfl⟩⟩
  · exact ⟨fun v => ((absorb256 Config.params v.1 v.2 b).sum, v.2 + 1), fun s => ⟨_, exec_absorb256 b s, rfl⟩⟩
  · exact ⟨fun v => (reduceMod Config.params v.1, v.2), fun s => ⟨_, exec_red256_w0 s, rfl⟩⟩

/-- Settles O55: the run leaves in `W0` what `HASH256 s` leaves there alone. -/
theorem digest256IndependentOfHistory : Obligations.Digest256IndependentOfHistory := by
  intro bs acts rest s hreset hacts hp
  obtain ⟨term, -, hexec⟩ := execAll_hash256Commands bs s
  obtain ⟨t, hrun, hview, hpending⟩ := pipeline256.core_run_view hreset (fun _ => readsOwn_of_mem_hash256Commands)
    hacts hp rfl hexec
  exact ⟨t, hrun, congrArg Prod.fst hview, hpending⟩

end Sys2Proof.Machine
end
